-- ==== Sys2Proof/Word.lean ====
section
/-! DEFINITION. The word type of the BZ8600 (03 R88, R89) and its plainest parts. -/

namespace Sys2Proof

/-- A 64-bit payload or register value. -/
abbrev Word := BitVec 64

/-- A byte. -/
abbrev Byte := BitVec 8

/-- A 40-bit address (03 R112). -/
abbrev Addr := BitVec 40

/-- R88: every unit of data is a word, a 64-bit payload and an 8-bit tag. -/
structure TWord where
  tag : Byte
  pay : Word
  deriving DecidableEq, Repr, Inhabited

end Sys2Proof
end

