-- ==== Sys2Proof/Syntax.lean ====
section
/-! DEFINITION. The commands of the block: one constructor of `Instr` for each row of
spec/opcode_table.json, with the operand types they need. A core command names its core `c`:
0 to 255 a ledger lane (4 x cell + core, R56), 256 to 259 a steward core. -/

namespace Sys2Proof

/-- A 5-bit register field (G0 to G31, or F0 to F31). -/
abbrev Reg := Fin 32

/-- Register-mode memory specifiers (R114, R139) and the long specifier (R140). -/
inductive RMem where
  | ptr (b : Reg) (disp : BitVec 18)
  | ptrX (sc : BitVec 2) (b x : Reg) (disp : BitVec 18)
  | short (off : BitVec 16)
  | shortX (sc : BitVec 2) (x : Reg) (off : BitVec 16)
  | long (addr : Addr)
  | longX (sc : BitVec 2) (x : Reg) (addr : Addr)
  deriving DecidableEq, Repr

/-- Addressing modes of a storage specifier (R118, R149). -/
inductive SMode where
  | based | indirect | postInc | preDec
  deriving DecidableEq, Repr

/-- A storage specifier (R149): mode, EXT, base 0 to 15, index 0 to 15, displacement. -/
structure SMem where
  am : SMode
  ext : Bool
  b : Fin 16
  x : Fin 16
  d : BitVec 20
  deriving DecidableEq, Repr

/-- A memory operand of either execution mode. -/
inductive Mem where
  | reg (m : RMem)
  | sto (m : SMem)
  deriving DecidableEq, Repr

/-- Forms of an integer instruction: RR (R137), SR and SX (R148). -/
inductive AluForm where
  | rr (rd ra rb : Reg)
  | sr (rd ra : Reg)
  | sx (rd : Reg) (m : SMem)
  deriving DecidableEq, Repr

/-- Forms of a one-operand instruction (NEG, MOV, FCVT, FSQRT). -/
inductive UnForm where
  | rr (rd ra : Reg)
  | sr (rd ra : Reg)
  deriving DecidableEq, Repr

/-- Forms of a binary64 instruction (R141, R150). -/
inductive FForm where
  | rr (fd fa fb : Reg)
  | sr (fd fa : Reg)
  | sx (fd : Reg) (m : SMem)
  deriving DecidableEq, Repr

/-- Forms of a decimal arithmetic instruction: MM and SS2, MMM and SS3, AA (R137, R148). -/
inductive DForm where
  | mm (l1 l2 : Nat) (m1 m2 : Mem)
  | mmm (l1 l2 l3 : Nat) (m1 m2 m3 : Mem)
  | aa (a b : Fin 4)
  deriving DecidableEq, Repr

/-- Register operands of MOVS, CMPS, TRNS and SCAN (R220). -/
inductive StrForm where
  | reg (rd ra rb : Reg)
  | sto (rd ra : Reg)
  deriving DecidableEq, Repr

/-- Forms of BRC (R143, R150). -/
inductive BrcForm where
  | rel (mask : BitVec 4) (disp : BitVec 20)
  | sto (mask : BitVec 4) (m : SMem)
  deriving DecidableEq, Repr

/-- Forms of BRL (R143, R150). -/
inductive BrlForm where
  | rel (disp : BitVec 24)
  | sto (rd : Reg) (m : SMem)
  deriving DecidableEq, Repr

/-- Body of a CUST instruction (R136). -/
inductive CustBody where
  | none
  | rrr (rd ra rb : Reg)
  | rm (rd : Reg) (m : Mem)
  | reserved
  deriving DecidableEq, Repr

/-- Integer operations that take a storage word (R150). -/
inductive AluOp where
  | add | sub | mul | div | cmp | and | or | xor
  deriving DecidableEq, Repr

/-- Decimal operations. -/
inductive DOp where
  | add | sub | mul | div | cmp
  deriving DecidableEq, Repr

/-- Decimal conversions. -/
inductive CvOp where
  | pack | unpk | cvpd | cvdp
  deriving DecidableEq, Repr

/-- Binary64 operations of two operands. -/
inductive FOp where
  | add | sub | mul | div | cmp
  deriving DecidableEq, Repr

/-- The instruction under a repeat byte (R133): the repeatable ones of R141 and R150, and
`other` for any that is not repeatable. -/
inductive RepOp where
  | ld (size : Fin 4) (rd : Reg) (m : Mem)
  | st (size : Fin 4) (rd : Reg) (m : Mem)
  | ldf (fd : Reg) (m : Mem)
  | stf (fd : Reg) (m : Mem)
  | lda (a : Fin 4) (fmt : BitVec 2) (l : Nat) (m : Mem)
  | sta (a : Fin 4) (fmt : BitVec 2) (l : Nat) (m : Mem)
  | dec (op : DOp) (f : DForm)
  | dsrd (l : Nat) (sh : BitVec 8) (rnd : BitVec 4) (m : Mem)
  | conv (op : CvOp) (l1 l2 : Nat) (m1 m2 : Mem)
  | movp (l1 l2 : Nat) (pad : Byte) (m1 m2 : Mem)
  | alu (op : AluOp) (rd : Reg) (m : SMem)
  | fp (op : FOp) (fd : Reg) (m : SMem)
  | other (len : Nat)
  deriving DecidableEq, Repr

/-- A TRQ as it reached a host port (R400, R401). `framed` says that the fragment rules of R400
hold, `zeros` that every zero field is zero, `vcOk` that it came on VC0. -/
structure Trq where
  orig : Word
  serial : BitVec 32
  prog : BitVec 12
  pool : BitVec 16
  plen : Nat
  payload : List Byte
  mlen : Nat
  framed : Bool
  zeros : Bool
  vcOk : Bool
  deriving DecidableEq, Repr

/-- R391: what any flit of the far end carries: ASEQ, NAK, and the credits for VC0 in the high byte to VC3; `port` is
the port it reached. -/
structure FlitHdr where
  port : Nat
  aseq : BitVec 12
  nak : Bool
  credit : BitVec 32
  deriving DecidableEq, Repr

/-- R384, R391: a flit as it was received: its bytes, and whether an uncorrectable codeword of T3 touched it. -/
structure RxFlit where
  fec : Bool
  bytes : List Byte
  deriving DecidableEq, Repr

/-- R421: a place in one of the streams on M0: a record's, or a state image's. -/
structure StreamSeq where
  seq : Word
  stream : Byte
  deriving DecidableEq, Repr

/-- R421: what an MHB says of reclaiming: of its sender's stream, and of the mirror copies it holds. -/
structure Reclaims where
  rcl : Word
  mrcl : Word
  deriving DecidableEq, Repr

/-- R476: a chunk of a boot offer. -/
structure ChunkId where
  offer : BitVec 32
  chunk : Nat
  deriving DecidableEq, Repr

/-- R410, R418, R436: a HAIL of the far end: its serial, its side, its nonce, and the JSEAL.RSZ it has (log entry
70); `good` says that its length, channel and zero fields are right. -/
structure FarHail where
  serial : Word
  side : Bool
  nonce : Word
  rsz : Nat
  good : Bool
  deriving DecidableEq, Repr

/-- R402, R410: a HAIL: one that the device sends on a port, or one that reaches a port. -/
inductive HailWay where
  | own (p : Nat)
  | far (p : Nat) (h : FarHail)
  deriving DecidableEq, Repr

/-- What a DRAM read met (R91). -/
inductive DramErr where
  | clean | single | double
  deriving DecidableEq, Repr

/-- R91, R379: an access of the debug master: a write, or a read, with what it meets in DRAM. -/
inductive DapOp where
  | read (err : DramErr)
  | write
  deriving DecidableEq, Repr

/-- R445, R567: the reference clock that is lost: TRNCLK, or REFCLK, which may come back that many picoseconds later. -/
inductive ClockLost where
  | trnclk
  | refclk (backIn : Option Nat)
  deriving DecidableEq, Repr

/-- R522: an SDO request's index, and whether its frame is an FD frame. -/
structure SdoIndex where
  idx : BitVec 16
  fd : Bool
  deriving DecidableEq, Repr

/-- R522, R529: an SDO segment request's toggle bit, and whether its frame is an FD frame. -/
structure SdoToggle where
  toggle : Bool
  fd : Bool
  deriving DecidableEq, Repr

/-- What a checker's fault concerns (R442, R444). -/
inductive FaultAt where
  | nothing
  | core (c : Nat)
  | record (n : Nat)
  deriving DecidableEq, Repr

/-- The commands. The name of each constructor is its row's mnemonic in lower camel case. -/
inductive Instr where
  -- system and gates
  | mode (c : Nat) (prefixed : Bool) (imm : BitVec 8)
  | identUnitPresence (c : Nat) (rd : Reg)
  | identContext (c : Nat) (rd : Reg)
  | identVersions (c : Nat) (rd : Reg)
  | identPair (c : Nat) (rd : Reg)
  | tcommit (c : Nat) (ra rb : Reg)
  | tabort (c : Nat) (rd ra rb : Reg)
  | tyield (c : Nat)
  | gate (c : Nat) (ra : Reg)
  | gret (c : Nat)
  -- integer
  | add (c : Nat) (f : AluForm)
  | sub (c : Nat) (f : AluForm)
  | mul (c : Nat) (f : AluForm)
  | div (c : Nat) (f : AluForm)
  | neg (c : Nat) (f : UnForm)
  | shl (c : Nat) (f : AluForm)
  | shr (c : Nat) (f : AluForm)
  | sar (c : Nat) (f : AluForm)
  | cmp (c : Nat) (f : AluForm)
  | and (c : Nat) (f : AluForm)
  | or (c : Nat) (f : AluForm)
  | xor (c : Nat) (f : AluForm)
  | mov (c : Nat) (f : UnForm)
  | addi (c : Nat) (rd ra : Reg) (imm : BitVec 14)
  | cmpi (c : Nat) (ra : Reg) (imm : BitVec 14)
  | shli (c : Nat) (rd ra : Reg) (imm : BitVec 14)
  | shri (c : Nat) (rd ra : Reg) (imm : BitVec 14)
  | sari (c : Nat) (rd ra : Reg) (imm : BitVec 14)
  | andi (c : Nat) (rd ra : Reg) (imm : BitVec 14)
  | ori (c : Nat) (rd ra : Reg) (imm : BitVec 14)
  | xori (c : Nat) (rd ra : Reg) (imm : BitVec 14)
  | ldi (c : Nat) (rd : Reg) (imm : BitVec 14)
  | ldiw (c : Nat) (rd : Reg) (imm : Word)
  -- generic and list
  | addg (c : Nat) (rd ra rb : Reg)
  | subg (c : Nat) (rd ra rb : Reg)
  | mulg (c : Nat) (rd ra rb : Reg)
  | divg (c : Nat) (rd ra rb : Reg)
  | cmpg (c : Nat) (ra rb : Reg)
  | tagr (c : Nat) (rd ra : Reg)
  | tags (c : Nat) (rd ra rb : Reg)
  | cons (c : Nat) (rd ra rb : Reg)
  | head (c : Nat) (rd ra : Reg)
  | tail (c : Nat) (rd ra : Reg)
  | seth (c : Nat) (ra rb : Reg)
  | sett (c : Nat) (ra rb : Reg)
  -- loads and stores
  | ld1 (c : Nat) (rd : Reg) (m : Mem)
  | ld2 (c : Nat) (rd : Reg) (m : Mem)
  | ld4 (c : Nat) (rd : Reg) (m : Mem)
  | ld8 (c : Nat) (rd : Reg) (m : Mem)
  | st1 (c : Nat) (rd : Reg) (m : Mem)
  | st2 (c : Nat) (rd : Reg) (m : Mem)
  | st4 (c : Nat) (rd : Reg) (m : Mem)
  | st8 (c : Nat) (rd : Reg) (m : Mem)
  | ldp (c : Nat) (rd : Reg) (m : RMem)
  | stp (c : Nat) (rd : Reg) (m : RMem)
  | ldf (c : Nat) (fd : Reg) (m : Mem)
  | stf (c : Nat) (fd : Reg) (m : Mem)
  | ldm (c : Nat) (rd : Reg) (m : Mem)
  | stm (c : Nat) (rd : Reg) (m : Mem)
  -- decimal
  | lda (c : Nat) (a : Fin 4) (fmt : BitVec 2) (l : Nat) (m : Mem)
  | sta (c : Nat) (a : Fin 4) (fmt : BitVec 2) (l : Nat) (m : Mem)
  | dadd (c : Nat) (f : DForm)
  | dsub (c : Nat) (f : DForm)
  | dmul (c : Nat) (f : DForm) (units : Nat)
  | ddiv (c : Nat) (f : DForm) (units : Nat)
  | dcmp (c : Nat) (f : DForm)
  | dsrd (c : Nat) (l : Nat) (sh : BitVec 8) (rnd : BitVec 4) (m : Mem)
  | pack (c : Nat) (l1 l2 : Nat) (m1 m2 : Mem)
  | unpk (c : Nat) (l1 l2 : Nat) (m1 m2 : Mem)
  | cvpd (c : Nat) (l1 l2 : Nat) (m1 m2 : Mem)
  | cvdp (c : Nat) (l1 l2 : Nat) (m1 m2 : Mem)
  -- string and edit; `units` is how many units run before an event is taken (R215)
  | movs (c : Nat) (f : StrForm) (units : Nat)
  | movp (c : Nat) (l1 l2 : Nat) (pad : Byte) (m1 m2 : Mem)
  | cmps (c : Nat) (f : StrForm) (units : Nat)
  | trns (c : Nat) (f : StrForm) (units : Nat)
  | scan (c : Nat) (f : StrForm) (units : Nat)
  | edit (c : Nat) (l1 l2 : Nat) (m1 m2 : Mem) (units : Nat)
  | edmk (c : Nat) (l1 l2 : Nat) (m1 m2 : Mem) (units : Nat)
  -- binary64
  | fadd (c : Nat) (f : FForm)
  | fsub (c : Nat) (f : FForm)
  | fmul (c : Nat) (f : FForm)
  | fdiv (c : Nat) (f : FForm)
  | fsqrt (c : Nat) (f : UnForm)
  | fcmp (c : Nat) (f : FForm)
  | fcvtToFix (c : Nat) (f : UnForm)
  | fcvtToFloat (c : Nat) (f : UnForm)
  | fmov (c : Nat) (fd fa : Reg)
  -- branches and special registers
  | brc (c : Nat) (f : BrcForm)
  | brl (c : Nat) (f : BrlForm)
  | jmp (c : Nat) (ra : Reg)
  | jmpl (c : Nat) (ra : Reg)
  | mfsr (c : Nat) (f : UnForm)
  | mtsr (c : Nat) (f : UnForm)
  | bct (c : Nat) (rd : Reg) (m : SMem)
  | cust (c : Nat) (pre : List Byte) (sel : Byte) (body : CustBody)
  | pairWord (c : Nat) (prefixed : Bool) (w : BitVec 32)
  | repi (c : Nat) (op : RepOp) (iters : Nat)
  | repu (c : Nat) (op : RepOp)
  -- core events
  | exceptionEntry (c : Nat)
  | budgetOverrun (c : Nat)
  | stop (c : Nat) (reached : List Bool)
  | preemption (c : Nat)
  | dispatch (c : Nat)
  | farVerdict (c : Nat)
  | farDataArrival (c : Nat) (err : DramErr)
  | farWriteAcknowledgement (c : Nat)
  | farPreRead (c : Nat) (err : DramErr)
  | dramLineFetch (c : Nat) (err : DramErr)
  | storeBufferDrain (c : Nat)
  | meshTransferDelivery
  -- admission and staging
  | trq (p : Nat) (f : Trq)
  | squallExit (p : Nat)
  | frameCheckComplete (p : Nat)
  | admissionDecision
  | decisionRelease
  | ack (p : Nat)
  | ref (p : Nat)
  | stagingRecordIssue (lane : Nat)
  | stagingRecordArrival (lane : Nat) (bad : List Nat)
  | stagingStart (lane : Nat)
  -- commit and journal
  | journalRecordReady
  | chainTake
  | ringWriteComplete
  | trp (p : Nat)
  | poolGateWrite (pool : BitVec 16) (entry : BitVec 256)
  | poolGateChange
  | selectorWrite (prog : BitVec 12) (words : List Word)
  | jrd (p : Nat) (stream : Nat)
  | jda (p : Nat) (seq : Word) (stream : Byte) (good : Bool)
  | jdr (p : Nat) (seq : Word) (stream : Byte) (good : Bool)
  -- link: `good` of a message says that R398 to R402 hold of it: its channel, its length and its zero fields are
  -- right, and its fragments are placed as they must be
  | laneSignalDetect (p : Nat)
  | negotiateComplete (p : Nat) (gens widths lanes : BitVec 3) (rev : Bool) (inv : BitVec 4)
  | equalizeComplete (p : Nat) (ok : Bool)
  | init (h : FlitHdr) (c0 c1 c2 c3 : BitVec 16)
  | lossOfLock (p : Nat)
  | relock (p : Nat)
  | recoverTimeout (p : Nat)
  | parkWindowExpiry (session : BitVec 32)
  | dataFlit (p : Nat) (f : RxFlit)
  | idleFlit (p : Nat) (f : RxFlit)
  | nak (p : Nat) (aseq : BitVec 12)
  | replayTimeout (p : Nat)
  | idleReq (h : FlitHdr)
  | idleAck (h : FlitHdr)
  | idleExit (p : Nat)
  -- sessions
  | hail (w : HailWay)
  | hrp (p : Nat) (peer : Word) (kind : Byte) (park : BitVec 32) (nonce echo : Word) (good : Bool)
  | lgr (p : Nat) (session seq : BitVec 32) (grant : BitVec 4) (good : Bool)
  -- management messages
  | mrqRead (p : Nat) (idx : BitVec 16) (sub : Byte) (id : BitVec 32) (good : Bool)
  | mrqWrite (p : Nat) (idx : BitVec 16) (sub : Byte) (id : BitVec 32) (data : List Byte) (good : Bool)
  | mrqSignedWrite (p : Nat) (idx : BitVec 16) (sub : Byte) (id : BitVec 32) (data : List Byte)
      (good : Bool)
  | mrs (p : Nat)
  -- time
  | tsy (p : Nat) (t1 seq : Word) (good : Bool)
  | tdq (p : Nat)
  | tdr (p : Nat) (t4 seq : Word) (good : Bool)
  | slewComplete
  | timeGuardCheck (crystalNs : Nat)
  | crystalLock (locked : Bool)
  -- boot
  | bof (p : Nat) (offer : BitVec 32) (len : Nat) (good : Bool)
  | bdt (p : Nat) (k : ChunkId) (len : Nat) (data : List Byte) (good : Bool)
  | brqTimeout
  | envelopeCheck
  | fuseBlow (sticks : Bool)
  -- pair
  | mrc (q : StreamSeq) (floor : BitVec 32) (body : List Byte) (good : Bool)
  | mak (q : StreamSeq) (good : Bool)
  | mhb (serial : Word) (side : Bool) (pstate : BitVec 4) (ready : Bool) (r : Reclaims) (good : Bool)
  | mhbSend
  | pairHbOutToggle
  | pairHbInEdge
  | pathSilent (pin : Bool)
  | makOverdue
  | soloGrantExpiry (k : Nat)
  | joinTimeout
  | rejoinReady
  | mapplyWrite (v : Word)
  | partitionHandover (mask : Word)
  | partitionMoveRecord
  -- Barometer
  | barometerFault (code kind index : Byte) (detail : Word) (at' : FaultAt) (info : Byte)
  | cellSelfTest (cell : Nat) (pass : Bool)
  | watchdogKick (v : BitVec 16)
  | watchdogExpiry
  | balrtClear (mask : BitVec 32)
  | tableScrub (bad : Option (Byte × Word))
  | patrolScrub (addr : Addr) (err : DramErr)
  | forceSafeN
  | supplyOutOfWindow (supply : Fin 7)
  | clockLoss (clock : ClockLost)
  | coreClockDeviation (ppm : Nat)
  | overTemperature (cell : Nat) (tenths : Int)
  | safetyInputRawTransition (pin : Fin 3)
  -- dual-signed commands
  | timeStep (env : List Byte)
  | closeLater (env : List Byte)
  | reopen (env : List Byte)
  | mogLimits (env : List Byte)
  -- protection tables
  | kfill (v : Word)
  | kfillComplete
  | keyTableWrite (b : Nat) (eight : Bool) (w : TWord)
  | regionShadowWrite (n : Nat) (regb : Bool) (w : TWord)
  | repochCommit (v : Word)
  | epochBoundary
  | jsealWrite (v : Word)
  | ringMoveComplete
  | fsealWrite (v : Word)
  | dcfgWrite (v : Word)
  -- ladder
  | cladOff (cell : Nat) (v : Word)
  | cladOn (cell : Nat) (v : Word)
  | cladRdy (cell : Nat) (v : Word)
  | dladSvc (v : Word)
  | registerWrite (addr : Addr) (v : Word)
  | cellDescent (cell : Nat)
  | wake (cell : Nat)
  | deviceRungEntry
  | deviceWake (src : Byte)
  | wakeTimerExpiry
  -- attestation and records
  | reportRequest (nonce : List Byte)
  | reportComplete
  | releaseFrozenRecord (n : Nat)
  | errorListClear
  | nodeIdWrite (v : Byte)
  -- debug access port
  | extest
  | idcode
  | samplePreload
  | clamp
  | highz
  | dbgnonce
  | dbgtoken (bytes : List Byte)
  | slotprog (slot : Fin 4) (hash : BitVec 256)
  | lcadv
  | dap (op : DapOp) (addr : Addr) (w : TWord)
  | testen (high : Bool)
  | bypass
  -- CAN FD
  | nmtStartRemoteNode (node : Byte)
  | nmtStopRemoteNode (node : Byte)
  | nmtEnterPreOperational (node : Byte)
  | nmtResetNode (node : Byte)
  | nmtResetCommunication (node : Byte)
  | errorPassive (on : Bool)
  | sdoInitiateUpload (idx : SdoIndex) (sub : Byte)
  | sdoInitiateDownload (idx : SdoIndex) (sub : Byte) (expedited : Bool) (size : Nat) (data : List Byte)
  | sdoUploadSegment (toggle : SdoToggle)
  | sdoDownloadSegment (toggle : SdoToggle) (data : List Byte) (last : Bool)
  | sdoBlockInitiate (idx : SdoIndex) (sub : Byte)
  | sdoSegmentTimeout
  | sdoResponse
  | heartbeat
  | busOff
  | busOffRecovery
  -- resets
  | powerOnReset
  | porstNRelease
  | suppliesInWindow
  | systemReset
  | barometerSelfTest
  deriving DecidableEq, Repr

end Sys2Proof
end

