-- ==== Sys2Proof/Decode.lean ====
section
/-! DEFINITION. Words of the opcode table. Every row of spec/opcode_table.json has an empty list of
fields, so no word spells a command (log entry 20). -/

namespace Sys2Proof

/-- The command that a word spells by the table's bits: none, since no row gives bits. -/
def decodeTableWord (_nbits _w : Nat) : Option Instr := none

end Sys2Proof
end

