-- ==== Sys2Proof/Machine/Bits.lean ====
section
/-! DEFINITION. Bit fields, byte order and sign helpers (00 Conventions, 03 R122). -/

namespace Sys2Proof.Machine

/-- Field [hi:lo] of a word, as a number. -/
def fld {n : Nat} (w : BitVec n) (hi lo : Nat) : Nat :=
  w.toNat / 2 ^ lo % 2 ^ (hi + 1 - lo)

/-- The word with field [hi:lo] set to `v` (taken modulo the field's size). -/
def setFld {n : Nat} (w : BitVec n) (hi lo v : Nat) : BitVec n :=
  BitVec.ofNat n (w.toNat - fld w hi lo * 2 ^ lo + v % 2 ^ (hi + 1 - lo) * 2 ^ lo)

/-- Bit `i`. -/
def bit {n : Nat} (w : BitVec n) (i : Nat) : Bool := w.getLsbD i

/-- 1 or 0. -/
def b2n (b : Bool) : Nat := if b then 1 else 0

/-- Big-endian bytes of a number, `n` of them (R122). -/
def beBytes : Nat → Nat → List Byte
  | 0, _ => []
  | n + 1, v => BitVec.ofNat 8 (v / 256 ^ n) :: beBytes n v

/-- Number held by big-endian bytes (R122). -/
def beNat (bs : List Byte) : Nat := bs.foldl (fun a b => a * 256 + b.toNat) 0

/-- Little-endian bytes, for CAN FD SDO data (R123). -/
def leBytes (n v : Nat) : List Byte := (beBytes n v).reverse

/-- Bytes of a word, most significant first. -/
def wordBytes (w : Word) : List Byte := beBytes 8 w.toNat

/-- A slice of a byte list: `n` bytes from offset `o`. -/
def slice (bs : List Byte) (o n : Nat) : List Byte := (bs.drop o).take n

/-- The big-endian number in a slice. -/
def field (bs : List Byte) (o n : Nat) : Nat := beNat (slice bs o n)

/-- Every byte of a slice is zero. -/
def zeroAt (bs : List Byte) (o n : Nat) : Bool := (slice bs o n).all fun b => b = 0

/-- `n` zero bytes. -/
def zeros (n : Nat) : List Byte := List.replicate n 0

/-- `n` rounded up to a multiple of `m`. -/
def roundUp (n m : Nat) : Nat := (n + m - 1) / m * m

/-- Quotient rounded up. -/
def cdiv (n m : Nat) : Nat := (n + m - 1) / m

/-- A list of bytes padded with zeros to a multiple of `m`. -/
def padTo (m : Nat) (bs : List Byte) : List Byte :=
  bs ++ zeros (roundUp bs.length m - bs.length)

/-- Two's complement value of the low `n` bits of a number. -/
def sx (n v : Nat) : Int :=
  if v % 2 ^ n < 2 ^ (n - 1) then (v % 2 ^ n : Nat) else (v % 2 ^ n : Nat) - (2 ^ n : Nat)

/-- Number of binary digits. -/
def bitLen (n : Nat) : Nat := if n = 0 then 0 else Nat.log2 n + 1

/-- Number of bits set among the low `n`. -/
def popCount : Nat → Nat → Nat
  | 0, _ => 0
  | n + 1, v => v / 2 ^ n % 2 + popCount n v

/-- Number of decimal digits of `v`, at most the fuel. -/
def decLen : Nat → Nat → Nat
  | 0, _ => 0
  | f + 1, v => if v = 0 then 0 else 1 + decLen f (v / 10)

end Sys2Proof.Machine
end

