-- ==== Sys2Proof/Machine/Hash.lean ====
section
/-! DEFINITION. The standard digests the spec cites: SHA3-256 (R76, R470), SHA-512 (R472, R482) and
CRC-32C (R392). The constants are those of FIPS 202, FIPS 180-4 and RFC 3720. -/

namespace Sys2Proof.Machine

/-- Keccak-f[1600] round constants. -/
def keccakRC : List Word :=
  [0x0000000000000001, 0x0000000000008082, 0x800000000000808a, 0x8000000080008000] ++
  [0x000000000000808b, 0x0000000080000001, 0x8000000080008081, 0x8000000000008009] ++
  [0x000000000000008a, 0x0000000000000088, 0x0000000080008009, 0x000000008000000a] ++
  [0x000000008000808b, 0x800000000000008b, 0x8000000000008089, 0x8000000000008003] ++
  [0x8000000000008002, 0x8000000000000080, 0x000000000000800a, 0x800000008000000a] ++
  [0x8000000080008081, 0x8000000000008080, 0x0000000080000001, 0x8000000080008008]

/-- Keccak rotation offsets, lane x + 5y. -/
def keccakRot : List Nat :=
  [0, 1, 62, 28, 27, 36, 44, 6, 55, 20, 3, 10, 43] ++
  [25, 39, 41, 45, 15, 21, 8, 18, 2, 61, 56, 14]

/-- Lane `i` of a Keccak state. -/
def lane (a : List Word) (i : Nat) : Word := a.getD i 0

/-- Theta: column parities mixed into every lane. -/
def keccakTheta (a : List Word) : List Word :=
  let c := (List.range 5).map fun x =>
    lane a x ^^^ lane a (x + 5) ^^^ lane a (x + 10) ^^^ lane a (x + 15) ^^^ lane a (x + 20)
  let d := (List.range 5).map fun x => lane c ((x + 4) % 5) ^^^ (lane c ((x + 1) % 5)).rotateLeft 1
  (List.range 25).map fun i => lane a i ^^^ lane d (i % 5)

/-- Rho and pi: lane (x, y) moves, rotated, to (y, 2x + 3y). -/
def keccakRhoPi (a : List Word) : List Word :=
  (List.range 25).map fun i =>
    let x := i % 5
    let y := i / 5
    let sx := (x + 3 * y) % 5
    let src := sx + 5 * x
    (lane a src).rotateLeft (keccakRot.getD src 0)

/-- Chi. -/
def keccakChi (b : List Word) : List Word :=
  (List.range 25).map fun i =>
    let r := 5 * (i / 5)
    lane b i ^^^ (~~~ lane b (r + (i + 1) % 5) &&& lane b (r + (i + 2) % 5))

/-- One round. -/
def keccakRound (a : List Word) (rc : Word) : List Word :=
  match keccakChi (keccakRhoPi (keccakTheta a)) with
  | [] => []
  | w :: r => (w ^^^ rc) :: r

/-- Keccak-f[1600]. -/
def keccakF (a : List Word) : List Word := keccakRC.foldl keccakRound a

/-- A little-endian word of a byte list. -/
def leWord (bs : List Byte) : Word := BitVec.ofNat 64 (beNat bs.reverse)

/-- Absorb whole 136-byte blocks. -/
def sha3Absorb : Nat → List Byte → List Word → List Word
  | 0, _, a => a
  | n + 1, bs, a =>
    let a' := (List.range 25).map fun i =>
      if i < 17 then lane a i ^^^ leWord (slice bs (8 * i) 8) else lane a i
    sha3Absorb n (bs.drop 136) (keccakF a')

/-- SHA3-256 of a byte string: 32 bytes. -/
def sha3 (m : List Byte) : List Byte :=
  let q := 136 - m.length % 136
  let pad : List Byte := if q = 1 then [0x86] else [0x06] ++ zeros (q - 2) ++ [0x80]
  let p := m ++ pad
  let a := sha3Absorb (p.length / 136) p (List.replicate 25 0)
  (a.take 4).flatMap fun w => leBytes 8 w.toNat

/-- SHA-512 round constants. -/
def sha512K : List Word :=
  [0x428a2f98d728ae22, 0x7137449123ef65cd, 0xb5c0fbcfec4d3b2f, 0xe9b5dba58189dbbc] ++
  [0x3956c25bf348b538, 0x59f111f1b605d019, 0x923f82a4af194f9b, 0xab1c5ed5da6d8118] ++
  [0xd807aa98a3030242, 0x12835b0145706fbe, 0x243185be4ee4b28c, 0x550c7dc3d5ffb4e2] ++
  [0x72be5d74f27b896f, 0x80deb1fe3b1696b1, 0x9bdc06a725c71235, 0xc19bf174cf692694] ++
  [0xe49b69c19ef14ad2, 0xefbe4786384f25e3, 0x0fc19dc68b8cd5b5, 0x240ca1cc77ac9c65] ++
  [0x2de92c6f592b0275, 0x4a7484aa6ea6e483, 0x5cb0a9dcbd41fbd4, 0x76f988da831153b5] ++
  [0x983e5152ee66dfab, 0xa831c66d2db43210, 0xb00327c898fb213f, 0xbf597fc7beef0ee4] ++
  [0xc6e00bf33da88fc2, 0xd5a79147930aa725, 0x06ca6351e003826f, 0x142929670a0e6e70] ++
  [0x27b70a8546d22ffc, 0x2e1b21385c26c926, 0x4d2c6dfc5ac42aed, 0x53380d139d95b3df] ++
  [0x650a73548baf63de, 0x766a0abb3c77b2a8, 0x81c2c92e47edaee6, 0x92722c851482353b] ++
  [0xa2bfe8a14cf10364, 0xa81a664bbc423001, 0xc24b8b70d0f89791, 0xc76c51a30654be30] ++
  [0xd192e819d6ef5218, 0xd69906245565a910, 0xf40e35855771202a, 0x106aa07032bbd1b8] ++
  [0x19a4c116b8d2d0c8, 0x1e376c085141ab53, 0x2748774cdf8eeb99, 0x34b0bcb5e19b48a8] ++
  [0x391c0cb3c5c95a63, 0x4ed8aa4ae3418acb, 0x5b9cca4f7763e373, 0x682e6ff3d6b2b8a3] ++
  [0x748f82ee5defb2fc, 0x78a5636f43172f60, 0x84c87814a1f0ab72, 0x8cc702081a6439ec] ++
  [0x90befffa23631e28, 0xa4506cebde82bde9, 0xbef9a3f7b2c67915, 0xc67178f2e372532b] ++
  [0xca273eceea26619c, 0xd186b8c721c0c207, 0xeada7dd6cde0eb1e, 0xf57d4f7fee6ed178] ++
  [0x06f067aa72176fba, 0x0a637dc5a2c898a6, 0x113f9804bef90dae, 0x1b710b35131c471b] ++
  [0x28db77f523047d84, 0x32caab7b40c72493, 0x3c9ebe0a15c9bebc, 0x431d67c49c100d4c] ++
  [0x4cc5d4becb3e42b6, 0x597f299cfc657e2a, 0x5fcb6fab3ad6faec, 0x6c44198c4a475817]

/-- SHA-512 initial values. -/
def sha512H : List Word :=
  [0x6a09e667f3bcc908, 0xbb67ae8584caa73b, 0x3c6ef372fe94f82b, 0xa54ff53a5f1d36f1] ++
  [0x510e527fade682d1, 0x9b05688c2b3e6c1f, 0x1f83d9abfb41bd6b, 0x5be0cd19137e2179]

/-- The message schedule: 80 words. -/
def sha512Sched : Nat → List Word → List Word
  | 0, w => w.reverse
  | n + 1, w =>
    let w15 := lane w 14
    let w2 := lane w 1
    let s0 := w15.rotateRight 1 ^^^ w15.rotateRight 8 ^^^ (w15 >>> 7)
    let s1 := w2.rotateRight 19 ^^^ w2.rotateRight 61 ^^^ (w2 >>> 6)
    sha512Sched n ((lane w 15 + s0 + lane w 6 + s1) :: w)

/-- One step of the compression on (a, …, h). -/
def sha512Step (v : List Word) (kw : Word × Word) : List Word :=
  match v with
  | [a, b, c, d, e, f, g, h] =>
    let s1 := e.rotateRight 14 ^^^ e.rotateRight 18 ^^^ e.rotateRight 41
    let ch := (e &&& f) ^^^ (~~~ e &&& g)
    let t1 := h + s1 + ch + kw.1 + kw.2
    let s0 := a.rotateRight 28 ^^^ a.rotateRight 34 ^^^ a.rotateRight 39
    let mj := (a &&& b) ^^^ (a &&& c) ^^^ (b &&& c)
    [t1 + s0 + mj, a, b, c, d + t1, e, f, g]
  | _ => v

/-- Digest blocks of 128 bytes. -/
def sha512Blocks : Nat → List Byte → List Word → List Word
  | 0, _, h => h
  | n + 1, bs, h =>
    let w0 := (List.range 16).map fun i => BitVec.ofNat 64 (field bs (8 * i) 8)
    let ws := sha512Sched 64 w0.reverse
    let v := (sha512K.zip ws).foldl sha512Step h
    sha512Blocks n (bs.drop 128) ((h.zip v).map fun p => p.1 + p.2)

/-- SHA-512 of a byte string: 64 bytes. -/
def sha512 (m : List Byte) : List Byte :=
  let z := (256 - (m.length + 17) % 128) % 128
  let p := m ++ [0x80] ++ zeros z ++ beBytes 16 (8 * m.length)
  (sha512Blocks (p.length / 128) p sha512H).flatMap wordBytes

/-- One bit of the reflected CRC-32C. -/
def crcBit (c : BitVec 32) : BitVec 32 :=
  if bit c 0 then (c >>> 1) ^^^ 0x82F63B78 else c >>> 1

/-- One byte of the CRC. -/
def crcByte (c : BitVec 32) (b : Byte) : BitVec 32 :=
  let c0 := c ^^^ b.setWidth 32
  crcBit (crcBit (crcBit (crcBit (crcBit (crcBit (crcBit (crcBit c0)))))))

/-- R392: CRC-32C of a byte string. -/
def crc32c (bs : List Byte) : BitVec 32 := bs.foldl crcByte 0xFFFFFFFF ^^^ 0xFFFFFFFF

end Sys2Proof.Machine
end

