-- ==== Sys2Proof/Config.lean ====
section
/-! DEFINITION. What the spec leaves open: free values, as constants without a body, and the
standard signature algorithms it cites without unfolding them. Fixed properties of the part (variant,
capacity, serial) are fields of State. -/

namespace Sys2Proof.Config

/-- R410, R415: a nonce or other 64-bit value from the device's random source (log entry 15). -/
opaque freeWord : Nat → BitVec 64

/-- R409: word 1 of a notice for which the spec states no detail (log entry 21). -/
opaque noticeDetail : Nat → BitVec 64

/-- R444: the index by which SOURCE names a block, from the event's code and its DETAIL (log entry 25). -/
opaque blockIndex : Nat → BitVec 64 → Nat

/-- R465, R490: a 128-bit nonce from the device's random source (log entry 15). -/
opaque freeNonce : Nat → BitVec 128

/-- R306: result of a decimal micro-operation of a customer routine, whose function the spec does not
state, from the execution, its cycle, operation, lanes, sources and constant (log entry 16). -/
opaque microDecimal : Nat → Nat → Nat → Nat → TWord → TWord → BitVec 64 → BitVec 64

/-- R212, R304: the residue that a rule RRULE predicts of a decimal micro-operation's result, whose codes the spec
does not list, from the modulus, the rule, the sources and the constant (log entry 16). -/
opaque microPredict : Nat → Nat → TWord → TWord → BitVec 64 → Nat

/-- R305: what micro temporary `k` holds at the start of execution `n` of a routine (log entry 16). -/
opaque microTemp : Nat → Nat → TWord

/-- R305: the word that an accumulator gives a micro-operation, and the accumulator that a word
makes (log entry 16). -/
opaque microAccRead : BitVec 214 → TWord
opaque microAccWrite : BitVec 214 → TWord → BitVec 214

/-- R265: word `i` of the level record of the vendor emulation routine entered at an address, whose registers the spec
does not give (log entry 126). -/
opaque emuWord : Nat → Nat → TWord

/-- RFC 8032 Ed25519 verification of (public key, message, signature), uninterpreted (log entry 17). -/
opaque edVerify : List Byte → List Byte → List Byte → Bool

/-- FIPS 204 ML-DSA-65 verification of (public key, message, signature), uninterpreted (log entry 17). -/
opaque mlVerify : List Byte → List Byte → List Byte → Bool

/-- R483, R485: the public key of kind `k` (0 Ed25519, 1 ML-DSA-65) that the key vault derives for a role of R484 from
the bytes it is made of (log entry 17). -/
opaque vaultKey : Nat → Nat → List Byte → List Byte

/-- R483 to R486: the signature of kind `k` that the key pair of a role, made of the bytes of the second list, gives a
message (log entry 17). -/
opaque vaultSign : Nat → Nat → List Byte → List Byte → List Byte

/-- R483: the signature of kind `k` of Kerusk's factory keys (log entry 17). -/
opaque factorySign : Nat → List Byte → List Byte

/-- R482: the boot ROM contents' SHA-512, which the spec does not list (log entry 18). -/
opaque romDigest : List Byte

/-- R527, R409: the notice code of an error reset, which the spec does not state (log entry 132). -/
opaque resetNotice : Nat → BitVec 16

/-- R505: code and reaction of the log entry for a resume copy that fails its check, which the spec does not
name (log entry 38). -/
opaque resumeCode : Nat → Nat

/-- R112: what read `n` of a control-space address without a register delivers (log entry 39). -/
opaque ctlHole : Nat → Nat → BitVec 8

/-- R391, R421: the credits that the device grants on M0, whose buffers the spec does not state (log entry 28). -/
opaque m0Credit : Nat → Nat

/-- R489: what boundary scan shifts out, and in, which the spec leaves to the board (log entry 19). -/
opaque scanOut : Nat → BitVec 64
opaque scanIn : Nat → BitVec 64


end Sys2Proof.Config
end

