-- ==== Sys2Proof/Machine/Store.lean ====
section
/-! DEFINITION. Sparse tables: lists of (key, value) pairs with a default for unlisted keys. Memory,
the hardware tables and the numbered units of the device are held in this one shape. -/

namespace Sys2Proof.Machine

/-- A sparse table. -/
abbrev Tbl (α : Type) := List (Nat × α)

/-- What key `i` holds; `d` for an unlisted key. -/
def tget {α : Type} (d : α) : Tbl α → Nat → α
  | [], _ => d
  | (k, v) :: r, i => if k = i then v else tget d r i

/-- Key `i` is unlisted from now on. -/
def tdel {α : Type} : Tbl α → Nat → Tbl α
  | [], _ => []
  | (k, v) :: r, i => if k = i then tdel r i else (k, v) :: tdel r i

/-- Key `i` holds `v`; the keys stay in rising order. -/
def tset {α : Type} : Tbl α → Nat → α → Tbl α
  | [], i, v => [(i, v)]
  | (k, w) :: r, i, v =>
    if k < i then (k, w) :: tset r i v
    else if k = i then (i, v) :: r
    else (i, v) :: (k, w) :: r

/-- Key `i` holds `v`, in canonical form: the default value is never listed. -/
def tput {α : Type} [DecidableEq α] (d : α) (t : Tbl α) (i : Nat) (v : α) : Tbl α :=
  if v = d then tdel t i else tset t i v

/-- The values of a run of keys from `lo`, without the default ones. -/
def trun {α : Type} [DecidableEq α] (d : α) (lo : Nat) : List α → Tbl α
  | [] => []
  | v :: r => if v = d then trun d (lo + 1) r else (lo, v) :: trun d (lo + 1) r

/-- A run of keys from `lo` holds the values `vs`, in canonical form. -/
def tblit {α : Type} [DecidableEq α] (d : α) (t : Tbl α) (lo : Nat) (vs : List α) : Tbl α :=
  (t.filter fun e => decide (e.1 < lo)) ++ trun d lo vs ++ t.filter fun e => decide (lo + vs.length ≤ e.1)

/-- Keys strictly rising from above `lo`. -/
def tsorted {α : Type} (lo : Nat) : Tbl α → Bool
  | [] => true
  | (k, _) :: r => decide (lo ≤ k) && tsorted (k + 1) r

/-- No listed value is the default. -/
def tsparse {α : Type} [DecidableEq α] (d : α) (t : Tbl α) : Bool :=
  t.all fun e => decide (e.2 ≠ d)

/-- The canonical form of a table. -/
def tcanon {α : Type} [DecidableEq α] (d : α) (t : Tbl α) : Bool :=
  tsorted 0 t && tsparse d t

end Sys2Proof.Machine
end

