-- ==== Sys2Proof/Machine/State.lean ====
section
/-! DEFINITION. The state of the block as plain data, its reset, and the reasons a step can stop.
Times named `...At` and `now` are picoseconds since power-on; a core cycle is 500 ps (R11). -/

namespace Sys2Proof.Machine

/-- R1: the three variants. -/
inductive Variant where
  | g | m | e
  deriving DecidableEq, Repr

/-- Fixed properties of the part and its board. -/
structure Part where
  variant : Variant
  /-- GiB on each of the eight memory ports, from port 0 on (R556). -/
  gibs : List Nat
  serial : Word
  stepping : Nat
  /-- SECRET as it was generated at manufacture (R470, R483). -/
  secret : BitVec 256
  deriving DecidableEq, Repr

/-- R556: GiB on a memory port of a part whose ports are equal, as R475 asks. -/
def Part.gib (p : Part) : Nat := p.gibs.headD 0

/-- Where the device stands between a reset and service, or in fail-silent (R453, R509, R515). -/
inductive Phase where
  | held | selfTest | rom | running | silent
  deriving DecidableEq, Repr

/-- One message of the time exchange of R415 in progress. -/
structure TimeEx where
  port : Nat
  session : Nat
  t1 : Nat
  t2 : Nat
  t3 : Option Nat
  seq : Word
  at' : Nat
  deriving DecidableEq, Repr

/-- Ledger time and the time guard (R458 to R461, R506, R511, R545). -/
structure LedgerTime where
  running : Bool
  /-- Ledger nanoseconds at `since`. -/
  base : Nat
  /-- What the holdover counter keeps beside whole nanoseconds, in 1/64 ns (R506). -/
  frac : Nat
  since : Nat
  /-- -200, 0 or 200 ppm. -/
  ppm : Int
  /-- Offset still to be absorbed, positive when the device is ahead. -/
  left : Int
  last : Int
  src : Option Nat
  crystal : Bool
  /-- Counting crystal periods (Mist and Frost, R506). -/
  holdover : Bool
  /-- Ledger time and time of the last check of R461, and steps since then. -/
  checked : Nat
  checkAt : Nat
  stepped : Nat
  exch : List TimeEx
  deriving DecidableEq, Repr

/-- Memory: one byte per listed payload address and one tag per listed word (keyed by address / 8).
Unlisted: byte 0, tag RAW. Cell memory of cell n lies at its window address (R112). -/
structure Memory where
  bytes : List Host.Cell
  tags : List Host.Cell
  deriving DecidableEq, Repr

/-- Chapter 11: key table, region tables, seals; DCFG of R98. -/
structure Prot where
  keys : Tbl Byte
  actA : Tbl Word
  actB : Tbl Word
  shA : Tbl Word
  shB : Tbl Word
  epoch : Nat
  pend : Bool
  pendAt : Nat
  kfill : Word
  /-- A fill in progress: when it started, and its KFILL value. -/
  filling : Option (Nat × Word)
  jseal : Word
  jsealOn : Bool
  fseal : Word
  fsealOn : Bool
  /-- A ring move in progress: the JSEAL values whose ranges stay sealed, and its bound (R371). -/
  ringMove : Option (List Word × Nat)
  dtrap : Bool
  dcfgLocked : Bool
  deriving DecidableEq, Repr

/-- R199: an accumulator, SIGN in [213:210] and 21 declets below. -/
abbrev Acc := BitVec 214

/-- R94: one register bank, with the level's instruction address and its pending registers (R275). -/
structure Bank where
  g : Vector TWord 32
  a : Vector Acc 4
  ct : Word
  xb : BitVec 24
  ps : Word
  te : Word
  fl : Word
  xa : Word
  xc : Word
  ia : Addr
  pend : BitVec 32
  /-- Cycle in which far data reached Gk, while that value stands (R272, R275). -/
  arr : Tbl Nat
  deriving DecidableEq, Repr

/-- R152, R66: nil. -/
def nil : TWord := ⟨0x90, 0⟩

/-- R199: an accumulator holding +0. -/
def accZero : Acc := BitVec.ofNat 214 (12 * 2 ^ 210)

/-- Reset values of a bank (R66, R102, maps of R95, R96, R99, R100). -/
def Bank.fresh : Bank where
  g := Vector.replicate 32 nil
  a := Vector.replicate 4 accZero
  ct := 0
  xb := 0
  ps := 0
  te := 0xFE
  fl := 0
  xa := 0
  xc := 0
  ia := 0
  pend := 0
  arr := []

/-- R321: a gate level with its LINK and LINFO. -/
structure GateLevel where
  bank : Bank
  link : Addr
  cSmode : Bool
  cPriv : Nat
  rmask : Byte
  desc : Addr
  deriving DecidableEq, Repr

/-- R321: the exception level with its frame address, and the gate depth at which it was entered:
gate levels beyond it were called by the handler. -/
structure ExcLevel where
  bank : Bank
  frame : Addr
  depth : Nat
  deriving DecidableEq, Repr

/-- R320: CSTATE.STATE. -/
inductive CState where
  | free | staging | ready | running | frozen | ending
  deriving DecidableEq, Repr

/-- R66: the copy of the program selector entry that governs a transaction. -/
structure Sel where
  cls : Nat
  smode : Bool
  priv : Nat
  akey : Nat
  entry : Addr
  wcet : Nat
  nstg : Nat
  emu : Bool
  descs : List Word
  deriving DecidableEq, Repr

/-- An exception waiting at a sampling point (R282, R348). -/
structure Pend where
  xa : Addr
  code : Nat
  info : Nat
  detail : Nat
  pair : Bool
  half : Bool
  deriving DecidableEq, Repr

/-- R320: a context, in its base record or in banks, with its transaction. -/
structure Ctx where
  st : CState
  lane : Nat
  slot : Nat
  prog : Nat
  base : Bank
  /-- Gate levels, innermost first; their number is the depth. -/
  gates : List GateLevel
  exc : Option ExcLevel
  /-- An exception still to be delivered when the context next runs (R282). -/
  xpend : Option Pend
  ovrp : Bool
  fpd : Bool
  freason : Nat
  dl : Nat
  dc : Nat
  stamp : Nat
  bcnt : Nat
  win : Nat
  f : Vector Word 32
  pendF : BitVec 32
  /-- Cycle in which far data reached Fk, while that value stands (R272, R275). -/
  arrF : Tbl Nat
  /-- Far-read buffer: word address and word, and the cycle in which it was complete (R276). -/
  frb : Tbl TWord
  frbAt : Nat
  /-- The rounds of the pre-read: their words, when each was presented, and the tables it was judged by (R368). -/
  frbBy : List (List Nat × Nat × Prot)
  /-- Far loads whose data arrived spoiled, by level, address and cycle of arrival: POISON_USE is to come (R163). -/
  late : List (Nat × Nat × Nat)
  /-- Emulations in progress, by level: the FP instruction and the cycles of its surcharge still to come (R268). -/
  emu : Tbl (Addr × Nat)
  ssp : TWord
  slim : Addr
  /-- Level records reserved (R319). -/
  levels : List Nat
  sel : Sel
  orig : Word
  serial : Nat
  pool : Nat
  part : Nat
  port : Nat
  session : Nat
  payload : List Byte
  /-- Staging blocks: payload run, vector block, record blocks (R65). -/
  payBlks : List Nat
  vecBlk : Nat
  recBlks : List Nat
  /-- Acceptance order (R61). -/
  acc : Nat
  started : Bool
  /-- In its first dispatch: the FP swap is charged to the budget counter (R67). -/
  firstRun : Bool
  /-- Staging start and release (R56), ps; of a FROZEN record, when it froze (R344). -/
  stgAt : Nat
  relAt : Nat
  staged : Nat
  /-- Remaining demand in half nanoseconds (R56, R60). -/
  dem : Nat
  /-- Mirror slot of the run deadline (R59). -/
  mslot : Nat
  /-- In its outgoing state when it was last switched out: at level 0 (R325). -/
  outAt0 : Bool
  /-- Cycles in which it held a core and that its budget counter does not see: switch-ins and later FP swaps
  (R60, R67). -/
  held : Nat
  /-- FLOOR of its duplicate row after its acceptance (R421). -/
  floor : Nat
  deriving DecidableEq, Repr

def Sel.none : Sel := ⟨0, false, 2, 0, 0, 0, 0, false, []⟩

/-- A FREE record. -/
def Ctx.free : Ctx where
  st := .free
  lane := 0
  slot := 0
  prog := 0
  base := Bank.fresh
  gates := []
  exc := none
  xpend := none
  ovrp := false
  fpd := false
  freason := 0
  dl := 0
  dc := 0
  stamp := 0
  bcnt := 0
  win := 0
  f := Vector.replicate 32 0
  pendF := 0
  arrF := []
  frb := []
  frbAt := 0
  frbBy := []
  late := []
  emu := []
  ssp := nil
  slim := 0
  levels := []
  sel := Sel.none
  orig := 0
  serial := 0
  pool := 0
  part := 0
  port := 0
  session := 0
  payload := []
  payBlks := []
  vecBlk := 0
  recBlks := []
  acc := 0
  started := false
  firstRun := false
  stgAt := 0
  relAt := 0
  staged := 0
  dem := 0
  mslot := 0
  outAt0 := true
  held := 0
  floor := 0

/-- A pending write: bytes from an address, and the tag every touched word takes; `st8` marks the
aligned ST8 that alone may update the heap-control block (R179). -/
structure PWrite where
  a : Nat
  bs : List Byte
  tag : Byte
  st8 : Bool
  deriving DecidableEq, Repr

/-- The context number under which a core's far accesses stand that run in its own bank: a steward core's, and those of
steward entry (log entry 125). -/
def ownRec : Nat := 16384

/-- What a far access does (R275). -/
inductive FarKind where
  /-- Load of `size` bytes at `a`, which read as `w`, into Gk of level `lvl` of context `n`; none when
  overtaken. -/
  | loadG (n lvl : Nat) (k : Option Reg) (a size : Nat) (w : TWord)
  /-- Load into Fk by level `lvl` of context `n`. -/
  | loadF (n lvl : Nat) (k : Option Reg) (a : Nat) (v : Word)
  /-- A posted write. -/
  | store (w : PWrite)
  /-- R186: a healing store, made at its acknowledgement if the word at `w.a` is still `old`, and the card it marks. -/
  | heal (old : TWord) (card : Option (Nat × Nat)) (w : PWrite)
  /-- A pre-read of context `n`, left in progress at a sampling point (R276, R279). -/
  | pre (n : Nat) (ws : List Nat)
  deriving DecidableEq, Repr

structure FarAcc where
  kind : FarKind
  /-- 0 while the whole-core instruction that posts it has not retired (R276). -/
  start : Nat
  words : Nat
  deriving DecidableEq, Repr

/-- A far access that awaits its verdict (R275): the exception it will raise, if any. -/
structure FarWait where
  acc : FarAcc
  fail : Option Pend
  next : Addr
  /-- The cycle in which it retires (R272). -/
  ret : Nat
  /-- Cycles of it that the budget counter does not see (R67). -/
  skip : Nat
  /-- A sealed range refused it (R372). -/
  sealHit : Bool
  deriving DecidableEq, Repr

/-- The schedule of R272, in cycles since power-on: next issue `t`, last start `sp`, ready times by
resource (G registers 0 to 31, F registers 32 to 63, CC 64), latest start times of the IT and FM
stations, newest first, and the times at which the units and the port of R270 are free. The last retire is
the core's `freeAt`. -/
structure Sched where
  t : Nat
  sp : Nat
  rdy : Tbl Nat
  it : List Nat
  fm : List Nat
  mul : Nat
  div : Nat
  fadd : Nat
  fmul : Nat
  fdiv : Nat
  port : Nat
  /-- The last cycle in which an ALU started, and how many of the two did. -/
  aluAt : Nat
  aluUsed : Nat
  /-- R274: start cycles of the buffered stores, oldest first; the drain cycle of the last that has left;
  the cycles that starting loads and far accesses claimed since. -/
  stores : List Nat
  drained : Nat
  claims : List Nat
  deriving DecidableEq, Repr

def Sched.fresh (t : Nat) : Sched := ⟨t, t, [], [], [], 0, 0, 0, 0, 0, 0, 0, 0, [], 0, []⟩

/-- A staged record in flight (R63): context, index, due time, and whether its check refused it (R64). -/
structure Flight where
  n : Nat
  i : Nat
  due : Nat
  fail : Bool
  deriving DecidableEq, Repr

/-- An execution of a unit-of-operation instruction at address `ia`: the units it has completed, whether it moves
descending (R222), and the picture header it read at its start (R235). -/
structure UnitWait where
  ia : Addr
  k : Nat
  desc : Bool
  hdr : List Byte
  deriving DecidableEq, Repr

/-- A core: ledger lanes 0 to 255, steward cores 256 to 259 (R270, R323). -/
structure Core where
  running : Option Nat
  /-- Resident base contexts, banks 0 to 5. -/
  banks : List Nat
  exc : Option Pend
  preempt : Bool
  /-- Time (ps) of the preemption request. -/
  preAt : Nat
  sb : List PWrite
  far : List FarAcc
  /-- Far accesses completed of late, newest first: start cycle and words (R277). -/
  hist : List (Nat × Nat)
  verdict : Option FarWait
  lines : List Nat
  fetchWait : List Nat
  /-- Words of the pre-read round in progress, and its start. -/
  preWait : List Nat
  waitAt : Nat
  /-- R276: an execution that waits at a unit boundary for its next pre-read. -/
  unit : Option UnitWait
  fpBanks : List Nat
  /-- Time (ps) of the last retirement. -/
  freeAt : Nat
  /-- R332: an instruction or unit that the end of the abort window cuts short, by what it would have written: address,
  byte, and tag of its word. -/
  cut : Option (List (Nat × Byte × Byte))
  sched : Sched
  dead : Bool
  stgFree : Nat
  stgFly : Option Flight
  /-- The bank and the F registers in which steward code runs (R333), its F registers pending, and its far-read buffer. -/
  own : Bank
  ownF : Vector Word 32
  ownPendF : BitVec 32
  ownArrF : Tbl Nat
  ownFrb : Tbl TWord
  ownFrbAt : Nat
  ownFrbBy : List (List Nat × Nat × Prot)
  deriving DecidableEq, Repr

def Core.reset : Core where
  running := none
  banks := []
  exc := none
  preempt := false
  preAt := 0
  sb := []
  far := []
  hist := []
  verdict := none
  lines := []
  fetchWait := []
  preWait := []
  waitAt := 0
  unit := none
  fpBanks := []
  freeAt := 0
  cut := none
  sched := Sched.fresh 0
  dead := false
  stgFree := 0
  stgFly := none
  own := Bank.fresh
  ownF := Vector.replicate 32 0
  ownPendF := 0
  ownArrF := []
  ownFrb := []
  ownFrbAt := 0
  ownFrbBy := []

/-- R547: service state of a logical cell. -/
inductive CellSvc where
  | ok | drained | selfTest | remap | lost
  deriving DecidableEq, Repr

/-- A class L event of a physical cell (R450). -/
structure CellEvent where
  at' : Nat
  code : Nat
  core : Nat
  /-- Not yet answered by a self-test or a spare. -/
  isOpen : Bool
  deriving DecidableEq, Repr

/-- A logical cell. -/
structure Cell where
  /-- Hardware copy of the heap-control block, by word number (R178). -/
  heap : Tbl Word
  ccfg0 : Word
  ccfg1 : Word
  /-- CLAD fields (R498). -/
  cur : Nat
  floor : Nat
  off : Bool
  rdy : Bool
  /-- A ladder exit in progress: when it completes (R494). -/
  exitAt : Option Nat
  idleAt : Nat
  svc : CellSvc
  phys : Nat
  temp : Int
  deriving DecidableEq, Repr

/-- Reset of logical cell n (R498, R547, R334). -/
def Cell.reset (n : Nat) : Cell where
  heap := []
  ccfg0 := 0
  ccfg1 := 0x3F00000000000000
  cur := 4
  floor := 2
  off := true
  rdy := false
  exitAt := none
  idleAt := 0
  svc := .ok
  phys := n
  temp := 250

/-- R41: an occupied duplicate slot. -/
structure DupSlot where
  serial : Nat
  done : Bool
  status : Nat
  seq : Nat
  excerpt : Nat
  deriving DecidableEq, Repr

/-- R41: a duplicate index row; free slots are absent. -/
structure DupRow where
  orig : Word
  floor : Nat
  lastSec : Nat
  used : Bool
  slots : List DupSlot
  deriving DecidableEq, Repr

def DupRow.free : DupRow := ⟨0, 0, 0, false, []⟩

/-- Outcome of the checks of R38. -/
inductive Decision where
  | none
  | refuse (reason detail : Nat)
  | dupDone (status seq excerpt : Nat)
  | dupFly
  | accept (record : Nat)
  deriving DecidableEq, Repr

/-- Where a request stands on the admission timeline (R36). -/
inductive RqState where
  | arrived | queued | decided | released
  deriving DecidableEq, Repr

/-- A request between its stamp and its first reply bit. -/
structure Request where
  port : Nat
  session : Nat
  stamp : Nat
  at' : Nat
  f : Trq
  st : RqState
  /-- It stands in its port's admission queue (R37). -/
  inQueue : Bool
  dec : Decision
  /-- The context to be created at the release, when accepted (R36). -/
  plan : Option Ctx
  deriving DecidableEq, Repr

/-- A DUPLICATE reply owed after its ACK (R42). -/
structure DupOwed where
  port : Nat
  session : Nat
  orig : Word
  serial : Nat
  stamp : Nat
  /-- Stored result, or none while the original is in flight. -/
  res : Option (Nat × Nat × Nat)
  dueAt : Nat
  deriving DecidableEq, Repr

/-- A pool gate or selector change that takes effect at W (R49, R54). -/
structure Change where
  pool : Option Nat
  prog : Option Nat
  entry : BitVec 256
  words : List Word
  w : Nat
  deriving DecidableEq, Repr

/-- The transaction engine (chapter 02). -/
structure Admission where
  reqs : List Request
  rows : Tbl DupRow
  pools : Tbl (BitVec 256)
  sels : Tbl (List Word)
  changes : List Change
  owed : List DupOwed
  accepted : Nat
  /-- Classes refused for fill (R82), bit c. -/
  fullCls : BitVec 4
  /-- Reserved mirror slots claimed by system records (R59). -/
  sysSlots : List Nat
  /-- Time of the last request taken (R35). -/
  takenAt : Nat
  retention : Nat
  gdepth : Nat
  drainHosts : Nat
  deriving DecidableEq, Repr

/-- The transaction a record belongs to. -/
structure TxRef where
  orig : Word
  serial : Nat
  port : Nat
  session : Nat
  stamp : Nat
  record : Nat
  deriving DecidableEq, Repr

/-- A record on the commit path or in the ring (R74 to R79). -/
structure Rec where
  stream : Nat
  seq : Nat
  kind : Nat
  status : Nat
  reason : Nat
  /-- Header fields that do not depend on SEQ. -/
  prog : Nat
  stamp : Nat
  done : Nat
  orig : Word
  serial : Nat
  pool : Nat
  part : Nat
  port : Nat
  cycles : Nat
  body : List Byte
  tx : Option TxRef
  /-- FLOOR of its duplicate row after its acceptance (R421); 0 of a system record. -/
  floor : Nat
  /-- Where it lies in the ring: bytes from the ring base (R74). -/
  place : Nat
  readyAt : Nat
  ready : Bool
  slot : Nat
  prev : List Byte
  h : List Byte
  ringAt : Nat
  ringDone : Bool
  sentAt : Nat
  sent : Bool
  acked : Bool
  ackAt : Nat
  replied : Bool
  /-- It came in an MRC (R422). -/
  mirrored : Bool
  deriving DecidableEq, Repr

/-- The journal unit. -/
structure Journal where
  /-- Records between their transaction's end and the chain engine. -/
  path : List Rec
  /-- Unreclaimed records, own and mirrored, in order of writing. -/
  ring : List Rec
  next0 : Nat
  next1 : Nat
  h0 : List Byte
  h1 : List Byte
  /-- Where the next record goes in the ring (log entry 101). -/
  tail : Nat
  opened : Bool
  /-- SEQ of the own record at which the drain is halted (R445 code x08). -/
  halted : Option Nat
  /-- Highest JDA of each drain session: (session, stream, SEQ) (R85). -/
  jdas : List (Nat × Nat × Nat)
  /-- Highest own SEQ whose copy the partner reclaimed, and highest partner SEQ acknowledged (R421). -/
  partnerMrcl : Nat
  partnerRcl : Nat
  reclaimed0 : Nat
  reclaimed1 : Nat
  deriving DecidableEq, Repr

/-- R386: link states. -/
inductive LState where
  | absent | disabled | detect | negotiate | equalize | align | up | recover
  deriving DecidableEq, Repr

/-- An MRQ not yet answered (R408): session, echo word, abort code, data, time due. -/
structure Answer where
  session : Nat
  echo : Word
  abort : Nat
  data : List Byte
  /-- Earliest time the answer may leave, for writes answered when they take effect. -/
  w : Option Nat
  /-- KIND of the system record whose writing it waits for (R541, R460), or 0. -/
  hold : Nat
  at' : Nat
  deriving DecidableEq, Repr

/-- R401: a transaction reply. -/
structure TrpMsg where
  orig : Word
  serial : Nat
  status : Nat
  ostatus : Nat
  reason : Nat
  stamp : Nat
  seq : Nat
  excerpt : Nat
  items : List Byte
  deriving DecidableEq, Repr

/-- R499, R553: what the memory ports drive. -/
inductive MemPins where
  | idle | active | powerDown | selfRefresh
  deriving DecidableEq, Repr

/-- What leaves the device: frames, notices and pin changes. -/
inductive Emit where
  | ack (p : Nat) (orig : Word) (serial stamp : Nat)
  | ref (p : Nat) (orig : Word) (serial reason detail stamp : Nat)
  | trp (p : Nat) (m : TrpMsg)
  | jrd (p stream seq : Nat) (bytes : List Byte)
  | mrs (p : Nat) (echo : Word) (abort : Nat) (data : List Byte)
  | mnt (p code dropped : Nat) (detail : Word)
  | init (p : Nat) (credits : List Nat)
  | hail (p : Nat) (serial : Word) (side : Bool) (gen width : Nat) (nonce : Word)
  | hrp (p : Nat) (serial : Word) (kind park : Nat) (nonce echo : Word)
  | sgr (p : Nat) (reassoc : Bool) (session : Nat) (echo : Word)
  | tdq (p : Nat) (seq : Word)
  | brq (p offer chunk len : Nat)
  | bst (p offer status image : Nat) (detail : Nat)
  | mrc (stream seq floor : Nat) (bytes : List Byte)
  | mak (stream seq : Nat)
  | mhb (serial : Word) (side : Bool) (pstate : Nat) (ready : Bool) (rcl mrcl : Nat)
  | flitNak (p : Nat) (aseq : BitVec 12)
  | replay (p : Nat) (frm : BitVec 12)
  | idleReq (p : Nat)
  | idleAck (p : Nat)
  | pairHbOut (level : Bool)
  | safeOut (high : Bool)
  | alert (high : Bool)
  /-- CAN FD frames; `fd` says the format (R522). -/
  | bootUp (fd : Bool) (node : Nat)
  | heartbeat (fd : Bool) (node state : Nat)
  | emcy (fd : Bool) (node code err cls kind index : Nat)
  | sdo (fd : Bool) (node idx sub abort : Nat) (data : List Byte)
  /-- MEMn_RESET_N and the memory ports (R553). -/
  | mem (reset : Bool) (pins : MemPins)
  | silent
  deriving DecidableEq, Repr

/-- R394, R398: a data flit not yet acknowledged: its sequence number, the time it was sent, the stream of its fragment,
and the reply (ACK, REF or TRP) it carries, if any. -/
structure FlitTx where
  seq : BitVec 12
  at' : Nat
  strm : Nat
  reply : Option Emit
  deriving DecidableEq, Repr

/-- A message that waits for credit or for its link, and its body words still to leave (R395, R398). -/
structure TxMsg where
  vc : Nat
  /-- The stream of its fragments (R398). -/
  strm : Nat
  left : Nat
  /-- Its first fragment has left. -/
  begun : Bool
  reply : Option Emit
  e : Emit
  deriving DecidableEq, Repr

/-- R398: a message of the far end in progress: its channel and stream, what its fragments say of it, the words that
have come, and whether a fragment broke a rule. -/
structure Asm where
  vc : Nat
  strm : Nat
  type : Nat
  mlen : Nat
  got : Nat
  bad : Bool
  deriving DecidableEq, Repr

/-- A Tranil port. -/
structure Port where
  pcfg : Word
  ls : LState
  gen : Nat
  width : Nat
  rev : Bool
  inv : BitVec 4
  squall : Bool
  squallAt : Nat
  /-- Stamps (ns) of the last TRQs, newest first (R406). -/
  arrivals : List Nat
  session : Nat
  sstate : Nat
  nonce : Word
  hailAt : Option Nat
  /-- Flit layer (R391 to R394). -/
  txSeq : BitVec 12
  rxSeq : BitVec 12
  ackSeq : BitVec 12
  nakSent : Bool
  replay : List FlitTx
  replays : Nat
  recoverAt : Nat
  /-- Generations both ends allow, by number (R387). -/
  common : List Nat
  /-- In electrical idle or standby (R390); the exchange: a request sent, the peer's one heard. -/
  idle : Bool
  standby : Bool
  idleAsked : Bool
  idleHeard : Bool
  /-- The far end has answered the request with IDLE_ACK. -/
  idleAcked : Bool
  /-- Credits the device holds for each VC, and has granted and not yet seen used. -/
  credits : List Nat
  grants : List Nat
  /-- Time of the last data flit accepted: its buffers are free 1 µs later (log entry 28). -/
  creditAt : Nat
  answers : List Answer
  mntTimes : List Nat
  mntDropped : Nat
  /-- Notices that wait for credit or for the link: code and detail. -/
  mnts : List (Nat × Word)
  /-- The end of the TRP that is on the wire (R405). -/
  trpEnd : Nat
  /-- The stream of that TRP (R404). -/
  trpStrm : Nat
  /-- Messages that wait to leave, oldest first. -/
  waiting : List TxMsg
  /-- Messages of the far end in progress. -/
  asm : List Asm
  /-- PCFG as the training in progress found it (R416). -/
  train : Word
  /-- Its peer answered the boot ROM's hail with a correct echo (R475). -/
  bootPeer : Bool
  deriving DecidableEq, Repr

/-- A session (R410 to R413). -/
structure Session where
  id : Nat
  peer : Word
  kind : Nat
  port : Nat
  /-- 2 GRANTED, 3 ACTIVE, 4 PARKED. -/
  st : Nat
  parkedAt : Nat
  nonce : Word
  /-- R413: the reply store. -/
  store : List Emit
  grant : Nat
  lease : Nat
  grantAt : Nat
  /-- Next SEQ to send on each stream, and last JDA. -/
  send0 : Nat
  send1 : Nat
  jda0 : Nat
  jda1 : Nat
  /-- Highest SEQ sent on each stream (R407). -/
  top0 : Nat
  top1 : Nat
  /-- When its last TSY was taken (R415). -/
  tsyAt : Option Nat
  /-- Window selectors (R520): object index * 256 + sub. -/
  wins : Tbl Nat
  deriving DecidableEq, Repr

/-- R420: pair states. -/
inductive PState where
  | alone | joining | paired | claim | solo | fenced | resync
  deriving DecidableEq, Repr

/-- R439: a partition move in progress, and whether its record has been written. -/
structure Move where
  id : Nat
  mask : Word
  recorded : Bool
  deriving DecidableEq, Repr

/-- Pair registers and logic (chapter 13). -/
structure Pair where
  cfg : Word
  locked : Bool
  pserial : Word
  homemap : Word
  ownmap : Word
  mapply : Nat
  adp : Tbl Word
  st : PState
  /-- Mirror or partner loss has been judged (R427). -/
  broken : Bool
  /-- The first record of each stream has been taken in this rejoin (R422). -/
  anchor0 : Bool
  anchor1 : Bool
  joinAt : Nat
  joinMs : Nat
  mhbAt : Nat
  pinAt : Nat
  hbm : Bool
  hbp : Bool
  /-- Valid SOLO grants: adapter index and expiry. -/
  grants : List (Nat × Nat)
  denied : List Nat
  /-- Moves in progress, those whose record has been written in the order of their records. -/
  moves : List Move
  /-- Number of the last move. -/
  moveId : Nat
  takeSeq : Option Nat
  /-- The records of R432 steps 2 and 3 are still to be written: the journal cannot take them yet. -/
  soloOwed : Bool
  /-- The pair event record of a rejoin is still to be written (R438, R84). -/
  rejoinOwed : Bool
  /-- Side and JSEAL.RSZ of the partner whose HAIL matched R418 on this link. -/
  far : Option (Bool × Nat)
  /-- A JOINING device has the partner's HRP (R411). -/
  met : Bool
  /-- MRCs of steps 1 and 2 of a rejoin that have not left yet (R436). -/
  sending : Nat
  ready : Bool
  rejoin : Bool
  hbOut : Bool
  mhbSentAt : Nat
  toggleAt : Nat
  deriving DecidableEq, Repr

/-- R444: a Barometer log entry. -/
structure LogEntry where
  time : Nat
  code : Nat
  cls : Nat
  kind : Nat
  index : Nat
  count : Nat
  detail : Word
  boots : Nat
  deriving DecidableEq, Repr

/-- The Barometer, safety pins and management output guard (chapter 14). -/
structure Baro where
  /-- The ring of 2,048 entries, and the place of the next. -/
  log : Tbl LogEntry
  logNext : Nat
  logCnt : Nat
  last : Nat
  /-- Chatter latches: FORCE_SAFE_N, PAIR_HB_IN, SYSRST_N. -/
  chat : BitVec 3
  src : BitVec 32
  wdPeriod : Nat
  wdLocked : Bool
  wdAt : Option Nat
  logSel : Nat
  boots : Nat
  /-- Events by code * 65536 + source (R444). -/
  counts : Tbl Nat
  /-- Raw transition times of each input (R456). -/
  raw0 : List Nat
  raw1 : List Nat
  raw2 : List Nat
  /-- R455: the levels of the three inputs after their filters. -/
  filt : BitVec 3
  /-- By physical cell: its class L events (R450) and the times of its code x03 events (R445 code x04). -/
  events : Tbl (List CellEvent)
  flips : Tbl (List Nat)
  /-- Physical cells that a spare has taken the place of (R450). -/
  failed : List Nat
  safeOut : Bool
  mogFrames : Nat
  mogEmcy : Nat
  frameTimes : List Nat
  emcyTimes : List Nat
  /-- R465: command nonce. -/
  nonce : BitVec 128
  deriving DecidableEq, Repr

/-- R470: an image offer (R476). -/
structure Offer where
  port : Nat
  id : Nat
  len : Nat
  /-- Chunks received, by number. -/
  chunks : Tbl (List Byte)
  /-- Chunks requested and not answered: number and time. -/
  asked : List (Nat × Nat)
  nextChunk : Nat
  /-- Envelopes checked so far. -/
  checked : Nat
  hdrOk : Bool
  deriving DecidableEq, Repr

/-- R470: a fuse bit that is to be blown: the next of ARB or of LIFE, or one of REVOKE, of a slot or of SECRET. -/
inductive Fuse where
  | arb
  | revoke (k : Nat)
  | slot (k i : Nat)
  | life
  | secret (i : Nat)
  deriving DecidableEq, Repr

/-- R471: the operation that blows fuses: a set of images (R480), SLOTPROG, LCADV, or a token (R490). -/
inductive FuseUse where
  | set | slotprog | lcadv | production | retire
  deriving DecidableEq, Repr

/-- An operation and the bits it still has to blow. -/
structure FuseJob where
  use : FuseUse
  bits : List Fuse
  deriving DecidableEq, Repr

/-- R489: what drives the pins: the device, the boundary register, or nothing. -/
inductive PinDrive where
  | device | boundary | highZ
  deriving DecidableEq, Repr

/-- Fuses, boot ROM, key vault, lifecycle and debug port (chapter 15). -/
structure Boot where
  slots : Tbl (BitVec 256)
  revoke : BitVec 4
  life : Nat
  arb : Nat
  /-- SECRET as its fuses stand. -/
  secret : BitVec 256
  /-- The operations that blow fuses, the one at work first (R471). -/
  fuseJobs : List FuseJob
  /-- Its first bit read unblown once (R471). -/
  fuseRetry : Bool
  /-- The key vault holds the identity keys, and the bytes its attestation keys are made of, if it holds those (R483,
  R485). -/
  idKeys : Bool
  attKeys : Option (List Byte)
  /-- The device enters fail-silent once the record of R488 is written. -/
  retiring : Bool
  serving : Option Offer
  held : List Offer
  dramOk : Bool
  /-- Control store of the customer region and its selector table (R296, R312). -/
  micro : Tbl (BitVec 40)
  nano : Tbl (BitVec 160)
  custSel : Tbl Word
  mcVersion : Nat
  stVersion : Nat
  bslot : Nat
  load : Addr
  cmdEd : List Byte
  cmdMl : List Byte
  ckhash : List Byte
  cminver : Nat
  mlog : List (List Byte)
  attEnd : List Byte
  /-- R486: the nonce of the report being produced. -/
  reportAsk : Option (List Byte)
  report : Option (List Byte)
  taint : Bool
  debugOpen : Bool
  /-- Codes of lifecycle and debug records that wait for the journal (R84, R488, R491). -/
  debugRec : List Nat
  dbgNonce : BitVec 128
  dbgStatus : Bool
  sacc : Nat
  sessionKeys : Bool
  tapIr : Byte
  tapOut : BitVec 160
  /-- The boundary register, and what drives the pins (R489). -/
  bscan : BitVec 64
  pinDrive : PinDrive
  dapErr : Bool
  deriving DecidableEq, Repr

/-- Device ladder, clocks, supplies and pins (chapters 16 and 18). -/
structure Power where
  cur : Nat
  tgt : Nat
  fexit : Bool
  wake : BitVec 11
  wsrc : Nat
  svc : Bool
  wb : Nat
  wd : Nat
  tdz : Nat
  tms : Nat
  ticks : Nat
  frV : Bool
  frAddr : Nat
  enteredAt : Nat
  calmAt : Nat
  porst : Bool
  testen : Bool
  supplies : BitVec 7
  selfTestAt : Nat
  /-- The last power-on reset, from which the crystal counts (R444). -/
  upAt : Nat
  /-- REFCLK was lost in Frost, and when it came back, if it did (R567). -/
  refLost : Bool
  refBackAt : Option Nat
  /-- A rung entry in progress: its rung, and when it began (R503 BUSY). -/
  entering : Option (Nat × Nat)
  /-- A wake source that came during the entry of Mist or Frost (R516). -/
  wakeDue : Option Nat
  /-- MEMn_RESET_N, and what else the memory ports drive (R553). -/
  memReset : Bool
  memPins : MemPins
  /-- The save area (R370, R499): the context store and the key table. -/
  saved : Option (Tbl Ctx × Tbl Byte)
  deriving DecidableEq, Repr

/-- NMT states (R525). -/
inductive Nmt where
  | initialising | preOperational | operational | stopped
  deriving DecidableEq, Repr

/-- An SDO transfer in progress (R529). -/
structure SdoXfer where
  idx : Nat
  sub : Nat
  up : Bool
  data : List Byte
  toggle : Bool
  at' : Nat
  /-- The format of its last request (R522). -/
  fd : Bool
  deriving DecidableEq, Repr

/-- An SDO answer owed: index, sub, abort code (0 for success), segment data. -/
structure SdoAnswer where
  idx : Nat
  sub : Nat
  abort : Nat
  data : List Byte
  at' : Nat
  w : Option Nat
  hold : Nat
  /-- The format of the request (R522). -/
  fd : Bool
  deriving DecidableEq, Repr

/-- Management plane (chapter 17). -/
structure Mgmt where
  errs : List (BitVec 32)
  hbMs : Nat
  nodeId : Nat
  /-- The node-ID in use since the last communication reset (R524). -/
  nodeUse : Nat
  /-- x2010:01-05 as written and as in force. -/
  canSet : List Nat
  canUse : List Nat
  /-- x2010:06. -/
  bus : Nat
  nmt : Nmt
  sdo : Option SdoXfer
  sdoAns : List SdoAnswer
  hbAt : Nat
  canWins : Tbl Nat
  /-- Counters and the fill gauge by index * 256 + sub, and for each counter and gauge the second of its last change with
  what it read at that second's refresh (R533). -/
  ctr : Tbl Nat
  ctrAt : Tbl (Nat × Nat)
  deriving DecidableEq, Repr

/-- A mesh transfer in flight (R20): source cell, destination, delivery time. -/
structure Xfer where
  src : Nat
  dst : Nat
  due : Nat
  deriving DecidableEq, Repr

/-- The whole block. -/
structure State where
  pending : List Instr
  /-- The model's own counter of free values used (log entry 4). -/
  free : Nat
  now : Nat
  phase : Phase
  part : Part
  time : LedgerTime
  mem : Memory
  prot : Prot
  cores : Tbl Core
  ctxs : Tbl Ctx
  cells : Tbl Cell
  adm : Admission
  jrn : Journal
  ports : Tbl Port
  sessions : List Session
  nextSession : Nat
  pair : Pair
  baro : Baro
  boot : Boot
  pwr : Power
  mgmt : Mgmt
  mesh : List Xfer
  out : List Emit
  deriving DecidableEq, Repr

/-- Faults: the machine stops. -/
inductive Fault where
  /-- Raised by EXCEPTION_ENTRY for an exception that is pending on a STEWARD core or at a steward entry:
  chapter 10 gives a handler, a stack and a record to contexts only, and none to steward code (log entry 2).
  Safe: the model stops. -/
  | stewardException
  deriving DecidableEq, Repr

/-- Refusals: no meaning. -/
inductive Refusal where
  /-- A command that has no meaning yet, named by its row. Safe: the model stops. -/
  | notModelled (mnemonic : String)
  deriving DecidableEq, Repr

/-- The outcome of a command. -/
abbrev Out := Host.Outcome State Fault Refusal

/-- R416: PCFG at reset of a host port, and of M0. -/
def pcfgReset (p : Nat) : Word := if p = 8 then 0x0000000D20000000 else 0x0190000FE0000000

/-- Port p at reset of a variant (R10, R416). -/
def Port.reset (v : Variant) (p : Nat) : Port where
  pcfg := if v = .e ∧ 4 ≤ p ∧ p < 8 then 0 else pcfgReset p
  ls := if v = .e ∧ 4 ≤ p ∧ p < 8 then .absent else .detect
  gen := 0
  width := 0
  rev := false
  inv := 0
  squall := false
  squallAt := 0
  arrivals := []
  session := 0
  sstate := 0
  nonce := 0
  hailAt := none
  txSeq := 0
  rxSeq := 0
  ackSeq := 0
  nakSent := false
  replay := []
  replays := 0
  recoverAt := 0
  common := []
  idle := false
  standby := false
  idleAsked := false
  idleHeard := false
  idleAcked := false
  credits := [0, 0, 0, 0]
  grants := [256, 32, 256, 256]
  creditAt := 0
  answers := []
  mntTimes := []
  mntDropped := 0
  mnts := []
  trpEnd := 0
  trpStrm := 0
  waiting := []
  asm := []
  train := 0
  bootPeer := false

def LedgerTime.reset : LedgerTime where
  running := false
  base := 0
  frac := 0
  since := 0
  ppm := 0
  left := 0
  last := 0
  src := none
  crystal := false
  holdover := false
  checked := 0
  checkAt := 0
  stepped := 0
  exch := []

def Prot.reset : Prot where
  keys := []
  actA := []
  actB := []
  shA := []
  shB := []
  epoch := 0
  pend := false
  pendAt := 0
  kfill := 0
  filling := none
  jseal := 0x0000020000000000
  jsealOn := false
  fseal := 0
  fsealOn := false
  ringMove := none
  dtrap := false
  dcfgLocked := false

def Admission.reset : Admission where
  reqs := []
  rows := []
  pools := []
  sels := []
  changes := []
  owed := []
  accepted := 0
  fullCls := 0
  sysSlots := []
  takenAt := 0
  retention := 600
  gdepth := 4
  drainHosts := 1

def Journal.reset : Journal where
  path := []
  ring := []
  next0 := 1
  next1 := 1
  h0 := List.replicate 32 0
  h1 := List.replicate 32 0
  tail := 0
  opened := false
  halted := none
  jdas := []
  partnerMrcl := 0
  partnerRcl := 0
  reclaimed0 := 0
  reclaimed1 := 0

def Pair.reset : Pair where
  cfg := 0x2000000000000000
  locked := false
  pserial := 0
  homemap := 0xAAAAAAAAAAAAAAAA
  ownmap := 0xAAAAAAAAAAAAAAAA
  mapply := 0
  adp := []
  st := .joining
  broken := false
  anchor0 := false
  anchor1 := false
  joinAt := 0
  joinMs := 2000
  mhbAt := 0
  pinAt := 0
  hbm := false
  hbp := false
  grants := []
  denied := []
  moves := []
  moveId := 0
  takeSeq := none
  soloOwed := false
  rejoinOwed := false
  far := none
  met := false
  sending := 0
  ready := false
  rejoin := false
  hbOut := false
  mhbSentAt := 0
  toggleAt := 0

def Baro.reset : Baro where
  log := []
  logNext := 0
  logCnt := 0
  last := 0
  chat := 0
  src := 0
  wdPeriod := 10
  wdLocked := false
  wdAt := none
  logSel := 0
  boots := 0
  counts := []
  raw0 := []
  raw1 := []
  raw2 := []
  filt := 7
  events := []
  flips := []
  failed := []
  safeOut := false
  mogFrames := 2000
  mogEmcy := 100
  frameTimes := []
  emcyTimes := []
  nonce := 0

def Boot.reset : Boot where
  slots := []
  revoke := 0
  life := 1
  arb := 0
  secret := 0
  fuseJobs := []
  fuseRetry := false
  idKeys := true
  attKeys := none
  retiring := false
  serving := none
  held := []
  dramOk := true
  micro := []
  nano := []
  custSel := []
  mcVersion := 0
  stVersion := 0
  bslot := 0
  load := 0
  cmdEd := []
  cmdMl := []
  ckhash := []
  cminver := 0
  mlog := []
  attEnd := []
  reportAsk := none
  report := none
  taint := false
  debugOpen := false
  debugRec := []
  dbgNonce := 0
  dbgStatus := false
  sacc := 0
  sessionKeys := false
  tapIr := 0x01
  tapOut := 0
  bscan := 0
  pinDrive := .device
  dapErr := false

/-- R503: WAKE resets to x7FF, on the E variant to x70F. -/
def wakeReset (v : Variant) : BitVec 11 := if v = .e then 0x70F else 0x7FF

def Power.reset (v : Variant) : Power where
  cur := 0
  tgt := 0
  fexit := false
  wake := wakeReset v
  wsrc := 0
  svc := false
  wb := 8
  wd := 8
  tdz := 50
  tms := 1000
  ticks := 0
  frV := false
  frAddr := 0
  enteredAt := 0
  calmAt := 0
  porst := true
  testen := false
  supplies := 0x7F
  selfTestAt := 0
  upAt := 0
  refLost := false
  refBackAt := none
  entering := none
  wakeDue := none
  memReset := false
  memPins := .idle
  saved := none

def Mgmt.reset : Mgmt where
  errs := []
  hbMs := 1000
  nodeId := 0
  nodeUse := 0
  canSet := [500, 2000, 1, 800, 750]
  canUse := [500, 2000, 1, 800, 750]
  bus := 3
  nmt := .initialising
  sdo := none
  sdoAns := []
  hbAt := 0
  canWins := []
  ctr := []
  ctrAt := []

/-- The part modelled at reset (log entries 7 and 133): a G variant with 16 GiB on each memory port. -/
def Part.reset : Part := ⟨.g, [16, 16, 16, 16, 16, 16, 16, 16], 1, 0, 0⟩

/-- Every on-die state except the fuses at its reset value (R509), for part `p` and fuses `b`. -/
def State.cleared (p : Part) (b : Boot) : State where
  pending := []
  free := 0
  now := 0
  phase := .held
  part := p
  time := LedgerTime.reset
  mem := ⟨[], []⟩
  prot := Prot.reset
  cores := []
  ctxs := []
  cells := []
  adm := Admission.reset
  jrn := Journal.reset
  ports := []
  sessions := []
  nextSession := 1
  pair := Pair.reset
  baro := Baro.reset
  boot := b
  pwr := Power.reset p.variant
  mgmt := Mgmt.reset
  mesh := []
  out := []

/-- The machine right after a power-on reset (R509), PORST_N still low and the supplies in window. -/
def State.reset : State := State.cleared Part.reset Boot.reset

end Sys2Proof.Machine
end

