-- ==== Sys2Proof/Machine/Memory.lean ====
section
/-! DEFINITION. Memory: the 40-bit address map (R112), bytes and tags (R88, R92), the heap-control
block's hardware copy (R178 to R180), and counters (R533). -/

namespace Sys2Proof.Machine

/-- R1: rated cells of a variant. -/
def ratedCells : Variant → Nat
  | .g => 64
  | .m => 48
  | .e => 32

/-- R1: host ports of a variant. -/
def hostPorts (v : Variant) : Nat := if v = .e then 4 else 8

/-- R556: installed DRAM, in bytes, from address 0 upward. -/
def dramBytes (p : Part) : Nat := 8 * p.gib * 2 ^ 30

/-- R112: the window of cell n. -/
def winBase (n : Nat) : Nat := 0xF000000000 + n * 0x100000

/-- Size of a cell memory (R112). -/
def cellBytes : Nat := 0x80000

/-- What an address names. -/
inductive Loc where
  | dram
  | cell (n off : Nat)
  | ctl
  | none
  deriving DecidableEq, Repr

/-- R112: what address `a` names for an access from `cell` (none: a steward core or the debug
master). -/
def locOf (p : Part) (cell : Option Nat) (a : Nat) : Loc :=
  if a < dramBytes p then .dram
  else if 0xF000000000 ≤ a ∧ a < 0xF004000000 then
    let n := (a - 0xF000000000) / 0x100000
    let off := (a - 0xF000000000) % 0x100000
    if n < ratedCells p.variant ∧ off < cellBytes then .cell n off else .none
  else if 0xFE00000000 ≤ a ∧ a < 0xFE00000000 + cellBytes then
    match cell with
    | some n => .cell n (a - 0xFE00000000)
    | none => .none
  else if 0xFF00000000 ≤ a ∧ a < 2 ^ 40 then .ctl
  else .none

/-- The address under which memory keeps a byte: cell memory under its cell's own window. -/
def physOf (cell : Option Nat) (a : Nat) : Nat :=
  match cell with
  | some n => if 0xFE00000000 ≤ a ∧ a < 0xFE00000000 + cellBytes then winBase n + (a - 0xFE00000000) else a
  | none => a

/-- The canonical form of memory: keys rising, no zero byte and no RAW tag listed. -/
abbrev Memory.wf (m : Memory) : Bool := tcanon (0 : Byte) m.bytes && tcanon (0 : Byte) m.tags

/-- One byte. -/
def rdByte (m : Memory) (a : Nat) : Byte := tget 0 m.bytes a

/-- The tag of the word that holds address `a`. -/
def rdTag (m : Memory) (a : Nat) : Byte := tget 0 m.tags (a / 8)

/-- Write one byte; the word it lies in takes the tag. -/
def wrByte (m : Memory) (a : Nat) (b tag : Byte) : Memory :=
  ⟨tput 0 m.bytes a b, tput 0 m.tags (a / 8) tag⟩

/-- Write bytes from `a` upward; every word touched takes the tag (R92). -/
def wrBytes (m : Memory) (a : Nat) (tag : Byte) : List Byte → Memory
  | [] => m
  | b :: r => wrBytes (wrByte m a b tag) (a + 1) tag r

/-- `n` bytes from `a`. -/
def rdBytes (m : Memory) (a : Nat) : Nat → List Byte
  | 0 => []
  | n + 1 => rdByte m a :: rdBytes m (a + 1) n

/-- The tagged word at the aligned address at or below `a`. -/
def rdWord (m : Memory) (a : Nat) : TWord :=
  ⟨rdTag m a, BitVec.ofNat 64 (beNat (rdBytes m (a / 8 * 8) 8))⟩

/-- Write a tagged word at an aligned address. -/
def wrWord (m : Memory) (a : Nat) (w : TWord) : Memory := wrBytes m a w.tag (wordBytes w.pay)

/-- A run of whole words of one tag is written from an aligned address. -/
def blit (m : Memory) (a : Nat) (tag : Byte) (bs : List Byte) : Memory :=
  ⟨tblit 0 m.bytes a bs, tblit 0 m.tags (a / 8) (List.replicate (cdiv bs.length 8) tag)⟩

/-- R533: the second that the last refresh began, from 1 (log entry 41). -/
def secOf (s : State) : Nat := s.now / 1000000000000 + 1

/-- R533: a counter or gauge changes from `v0`; its first change in a second keeps what the refresh found. -/
def markCtr (s : State) (k v0 : Nat) : State :=
  { s with mgmt := { s.mgmt with
    ctrAt := if (tget (0, 0) s.mgmt.ctrAt k).1 = secOf s then s.mgmt.ctrAt else tset s.mgmt.ctrAt k (secOf s, v0) } }

/-- A counter or gauge changes from `v0` to `v`. -/
def setCtr (s : State) (k v0 v : Nat) : State :=
  let s1 := markCtr s k v0
  { s1 with mgmt := { s1.mgmt with ctr := tset s1.mgmt.ctr k v } }

/-- R533: what the latest refresh shows of it; `v` is what it shows when it has not changed since. -/
def shownCtr (s : State) (k v : Nat) : Nat :=
  if (tget (0, 0) s.mgmt.ctrAt k).1 = secOf s then (tget (0, 0) s.mgmt.ctrAt k).2 else v

/-- R533: a counter goes up by one and saturates. -/
def bump (s : State) (idx sub : Nat) : State :=
  let k := idx * 256 + sub
  let v := tget 0 s.mgmt.ctr k
  setCtr s k v (min (v + 1) (2 ^ 64 - 1))

/-- R13: a refused register write changes nothing but its counter. -/
def refuse (s : State) : State := bump s 0x4000 1

/-- Cell n. -/
def getCell (s : State) (n : Nat) : Cell := tget (Cell.reset n) s.cells n
def setCell (s : State) (n : Nat) (x : Cell) : State := { s with cells := tset s.cells n x }

/-- A word of the hardware copy of a cell's heap-control block. -/
def heapWord (s : State) (n i : Nat) : Word := tget 0 (getCell s n).heap i

/-- R178: whether a value may be stored into word `i` of the heap-control block. -/
def heapOk (i : Nat) (v : Word) : Bool :=
  if i = 0 then fld v 63 16 = 0 && fld v 11 3 = 0
  else if i = 1 || i = 2 then fld v 63 40 = 0 && fld v 11 0 = 0
  else if i = 3 then fld v 63 40 = 0
  else if 8 ≤ i && i < 16 then fld v 63 40 = 0 && fld v 3 0 = 0
  else if 64 ≤ i && i < 128 then
    fld v 62 54 = 0 && fld v 47 40 = 0 &&
    (!bit v 63 || (12 ≤ fld v 53 48 && fld v 53 48 ≤ 30 && fld v 39 0 % 2 ^ fld v 53 48 = 0))
  else v = 0

/-- The cell and word of the heap-control block that a byte address lies in, if any. -/
def heapAt (a : Nat) : Option (Nat × Nat) :=
  if 0xF000000000 ≤ a ∧ a < 0xF004000000 ∧ (a - 0xF000000000) % 0x100000 < 1024 then
    some ((a - 0xF000000000) / 0x100000, (a - 0xF000000000) % 0x100000 / 8)
  else none

/-- A write touches the heap-control block of some cell. -/
def touchesHeap (w : PWrite) : Bool :=
  (List.range w.bs.length).any fun i => (heapAt (w.a + i)).isSome

/-- Memory with a write made; no heap-control block is concerned. -/
def plainWrite (s : State) (w : PWrite) : State :=
  { s with mem := wrBytes s.mem w.a w.tag w.bs }

/-- A write reaches memory. A store into a heap-control block updates memory and the hardware copy
only as R179 allows, and is refused otherwise. No byte of memory lies in the control space. -/
def applyWrite (s : State) (w : PWrite) : State :=
  if 0xFF00000000 ≤ w.a then refuse s
  else if touchesHeap w then
    match heapAt w.a with
    | some (n, i) =>
      let v : Word := BitVec.ofNat 64 (beNat w.bs)
      if w.st8 && w.a % 8 = 0 && (w.tag = 0 || w.tag = 0x10) && heapOk i v then
        let s := plainWrite s w
        setCell s n { getCell s n with heap := tput 0 (getCell s n).heap i v }
      else refuse s
    | none => refuse s
  else plainWrite s w

/-- Several writes, in order. -/
def applyWrites (s : State) : List PWrite → State
  | [] => s
  | w :: r => applyWrites (applyWrite s w) r

/-- R180, R177: an allocation advances ATOP in the hardware copy and in memory at once; the word is tagged FIX (log
entry 122). -/
def setHeapWord (s : State) (n i : Nat) (v : Word) : State :=
  let s := { s with mem := wrWord s.mem (winBase n + 8 * i) ⟨0x10, v⟩ }
  setCell s n { getCell s n with heap := tput 0 (getCell s n).heap i v }

end Sys2Proof.Machine
end

