-- ==== Sys2Proof/Machine/Access.lean ====
section
/-! DEFINITION. Storage protection: sealed ranges, regions and keys, and the check of one byte
(chapter 11, steps 4 to 8 of R374). -/

namespace Sys2Proof.Machine

/-- Kind of an access (R363). -/
inductive Kind where
  | read | write | both
  | fetch (storage : Bool)
  deriving DecidableEq, Repr

/-- Privilege, key and cell with which an access is checked (R356). -/
structure Who where
  cell : Option Nat
  priv : Nat
  key : Nat
  deriving DecidableEq, Repr

/-- Range of the ring that a JSEAL value names (R371): base and size. -/
def jsealRange (v : Word) : Nat × Nat := (fld v 39 29 * 2 ^ 29, fld v 48 40 * 2 ^ 29)

/-- Range of the save area that FSEAL names (R370, R371). -/
def fsealRange (v : Word) : Nat × Nat := (fld v 39 20 * 2 ^ 20, 20 * 2 ^ 20)

def inRange (r : Nat × Nat) (a : Nat) : Bool := r.1 ≤ a && a < r.1 + r.2

/-- R370, R371: the byte lies in a sealed range. -/
def sealedAt (p : Prot) (a : Nat) : Bool :=
  (p.jsealOn && inRange (jsealRange p.jseal) a) ||
  (match p.ringMove with | some (old, _) => old.any fun v => inRange (jsealRange v) a | none => false) ||
  (p.fsealOn && inRange (fsealRange p.fseal) a) ||
  inRange (0xFFF0000000, 0x1000000) a || inRange (0xFFF1000000, 0x10000) a

/-- R362: the first valid entry of a region table that covers address `a` (an own-cell window address
for cell memory) for the cell given; REGA and REGB. -/
def regionFind (tb : Tbl Word) (cell : Option Nat) (a : Nat) : Tbl Word → Option (Word × Word)
  | [] => none
  | (n, ra) :: r =>
    let rb := tget 0 tb n
    if bit ra 63 && fld ra 39 8 * 256 ≤ a && a < fld rb 39 8 * 256 &&
       (fld ra 62 61 = 0 || (fld ra 62 61 = 1 && cell = some (fld ra 60 55)))
    then some (ra, rb) else regionFind tb cell a r

/-- R363: the permission bits of a privilege: [3] read, [2] write, [1] register-mode fetch,
[0] storage-mode fetch. -/
def permBits (rb : Word) (priv : Nat) : Nat :=
  match priv with
  | 0 => fld rb 55 52
  | 1 => fld rb 51 48
  | 2 => fld rb 47 44
  | _ => fld rb 43 40

def permits (bits : Nat) : Kind → Bool
  | .read => bits / 8 % 2 = 1
  | .write => bits / 4 % 2 = 1
  | .both => bits / 8 % 2 = 1 && bits / 4 % 2 = 1
  | .fetch storage => if storage then bits % 2 = 1 else bits / 2 % 2 = 1

/-- R358: an access key matches a block key. -/
def keyMatch (w : Who) (block : Nat) : Bool := w.key = block || (w.key = 0 && w.priv ≤ 1)

/-- R358: the key check of a block with its RP bit. -/
def keyOk (w : Who) (k : Kind) (block : Nat) (rp : Bool) : Bool :=
  match k with
  | .write | .both => keyMatch w block
  | .read | .fetch _ => !rp || keyMatch w block

/-- R360: CNT and the entries that a fill writes: first, count and value. -/
def fillFirst (v : Word) : Nat := fld v 51 30
def fillCount (v : Word) : Nat := fld v 29 8 + 1
def fillValue (v : Word) : Byte := v.setWidth 8

/-- R360: entry `b` of the key table; entry START + i of a running fill takes VALUE in cycle 1 + i / 64. -/
def keyAt (s : State) (b : Nat) : Byte :=
  match s.prot.filling with
  | some (t, v) =>
    let i := b - fillFirst v
    if fillFirst v ≤ b && i < fillCount v && t + (1 + i / 64) * 500 ≤ s.now then fillValue v
    else tget 0 s.prot.keys b
  | none => tget 0 s.prot.keys b

/-- R369: whether step 6 is waived. -/
def regionWaived (s : State) (w : Who) : Bool := s.prot.epoch = 0 && w.priv = 0

/-- Steps 6 to 8 of R374 for a byte of DRAM: the exception code of the failure. -/
def dramFail (s : State) (w : Who) (k : Kind) (a : Nat) : Option Nat :=
  let e := keyAt s (a / 32768)
  let key := if keyOk w k (fld e 7 4) (bit e 3) then none else some 5
  if regionWaived s w then key
  else if s.prot.epoch = 0 then some 6
  else
    match regionFind s.prot.actB w.cell a s.prot.actA with
    | none => some 6
    | some (_, rb) => if permits (permBits rb w.priv) k then key else some 6

/-- Steps 6 to 8 of R374 for a byte of the memory of cell `n`. -/
def cellFail (s : State) (w : Who) (k : Kind) (n off : Nat) : Option Nat :=
  if regionWaived s w then none
  else if s.prot.epoch = 0 then some 6
  else
    match regionFind s.prot.actB (some n) (0xFE00000000 + off) s.prot.actA with
    | none => some 6
    | some (ra, rb) =>
      if !permits (permBits rb w.priv) k then some 6
      else if keyOk w k (fld ra 47 44) (bit ra 49) then none else some 5

/-- Steps 4 to 8 of R374 for one byte: code 6 REGION_PROTECTION or 5 KEY_PROTECTION, and whether a
sealed range refused it (R372). -/
def byteFail (s : State) (w : Who) (k : Kind) (a : Nat) : Option (Nat × Bool) :=
  match locOf s.part w.cell a with
  | .none => some (6, false)
  | .ctl =>
    if w.priv ≠ 0 then some (6, false)
    else if sealedAt s.prot a then some (6, true)
    else none
  | .dram =>
    if sealedAt s.prot a then some (6, true)
    else (dramFail s w k a).map fun c => (c, false)
  | .cell n off =>
    if w.priv ≠ 0 && w.cell ≠ some n then some (6, false)
    else (cellFail s w k n off).map fun c => (c, false)

/-- Steps 4 and 5 alone, for allocation writes (R177, R356). An object in another cell's window or in the control
space fails them at any privilege (log entry 123). -/
def allocFail (s : State) (w : Who) (a : Nat) : Bool :=
  match locOf s.part w.cell a with
  | .none | .ctl => true
  | .dram => sealedAt s.prot a
  | .cell n _ => w.cell ≠ some n

/-- The first of `n` bytes from `a` that `f` refuses. -/
def failFirst (f : Nat → Option (Nat × Bool)) (a : Nat) : Nat → Option (Nat × Nat × Bool)
  | 0 => none
  | n + 1 =>
    match f a with
    | some (c, sl) => some (a, c, sl)
    | none => failFirst f (a + 1) n

/-- The first failing byte of `n` bytes from `a` (R374, R376). -/
def rangeFail (s : State) (w : Who) (k : Kind) (a n : Nat) : Option (Nat × Nat × Bool) := failFirst (byteFail s w k) a n

/-- R364, R337: a byte lies in a region with the gate permission. -/
def gateRegion (s : State) (n off : Nat) : Bool :=
  match regionFind s.prot.actB (some n) (0xFE00000000 + off) s.prot.actA with
  | none => false
  | some (ra, _) => bit ra 48

end Sys2Proof.Machine
end

