-- ==== Sys2Proof/Machine/Ops.lean ====
section
/-! DEFINITION. Named operations of a core: its bank, its registers, the instruction schedule (R272),
the budget counter (R67, R68), raising an exception, and the one run of an instruction. -/

namespace Sys2Proof.Machine

def getCore (s : State) (c : Nat) : Core := tget Core.reset s.cores c
def setCore (s : State) (c : Nat) (k : Core) : State := { s with cores := tset s.cores c k }
def getCtx (s : State) (n : Nat) : Ctx := tget Ctx.free s.ctxs n
def setCtx (s : State) (n : Nat) (x : Ctx) : State := { s with ctxs := tset s.ctxs n x }
def getPort (s : State) (p : Nat) : Port := tget (Port.reset s.part.variant p) s.ports p
def setPort (s : State) (p : Nat) (x : Port) : State := { s with ports := tset s.ports p x }

/-- Something leaves the device. -/
def emit (s : State) (e : Emit) : State := { s with out := e :: s.out }

/-- A core cycle in picoseconds (R11). -/
def cyc : Nat := 500

/-- The cell of a ledger core; none for a steward core. -/
def cellOf (c : Nat) : Option Nat := if c < 256 then some (c / 4) else none

/-- The lane or steward core exists on the variant. -/
def coreExists (s : State) (c : Nat) : Bool :=
  c < 4 * ratedCells s.part.variant || (256 ≤ c && c < 260)

/-- The level whose registers a context's instructions use: 0 base, 1 exception level, d + 1 the gate
level of depth d (R323). -/
def Ctx.level (x : Ctx) : Nat :=
  match x.exc with
  | some e => if e.depth < x.gates.length then x.gates.length + 1 else 1
  | none => if x.gates = [] then 0 else x.gates.length + 1

/-- R265, R340: current gate depth: the gate levels, and the emulation routine at each level that is inside it. -/
def Ctx.depth (x : Ctx) : Nat := x.gates.length + x.emu.length

/-- The bank of a level. -/
def Ctx.bankOf (x : Ctx) (l : Nat) : Bank :=
  if l = 0 then x.base
  else if l = 1 then (match x.exc with | some e => e.bank | none => Bank.fresh)
  else (match x.gates[x.gates.length + 1 - l]? with | some g => g.bank | none => Bank.fresh)

/-- The context with the bank of a level replaced. -/
def Ctx.setBankOf (x : Ctx) (l : Nat) (b : Bank) : Ctx :=
  if l = 0 then { x with base := b }
  else if l = 1 then { x with exc := x.exc.map fun e => { e with bank := b } }
  else
    { x with gates := x.gates.mapIdx fun i g => if i = x.gates.length + 1 - l then { g with bank := b } else g }

/-- A ledger core runs a context. -/
def onCtx (s : State) (c : Nat) : Bool := c < 256 && (getCore s c).running.isSome

/-- The record in which a core's code runs: its context and its level, or the core's own bank. -/
def ctxLevel (s : State) (c : Nat) : Nat × Nat :=
  match (getCore s c).running with
  | some n => (n, (getCtx s n).level)
  | none => (ownRec, 0)

/-- R60: the transaction is in the ledger of its lane. -/
def inLedger (x : Ctx) : Bool := x.st = .staging || x.st = .ready || x.st = .running

/-- R333: a ledger core may run steward code, in its bank 7: it runs no context, and no transaction is accepted onto its
lane (log entry 113). -/
def stewardEntry (s : State) (c : Nat) : Bool :=
  c < 256 && (getCore s c).running.isNone && !(s.ctxs.any fun e => inLedger e.2 && e.2.lane = c)

/-- The bank in use on a core: of the context it runs, else its own, a steward core's or bank 7 at steward entry. -/
def curBank (s : State) (c : Nat) : Bank :=
  if 256 ≤ c then (getCore s c).own
  else match (getCore s c).running with
    | some n => (getCtx s n).bankOf (getCtx s n).level
    | none => (getCore s c).own

/-- The state with the bank in use on a core replaced. -/
def setBank (s : State) (c : Nat) (b : Bank) : State :=
  if 256 ≤ c then setCore s c { getCore s c with own := b }
  else match (getCore s c).running with
    | some n => setCtx s n ((getCtx s n).setBankOf (getCtx s n).level b)
    | none => setCore s c { getCore s c with own := b }

-- fields of PS (R95)
def Bank.priv (b : Bank) : Nat := fld b.ps 19 18
def Bank.akey (b : Bank) : Nat := fld b.ps 23 20
def Bank.smode (b : Bank) : Bool := bit b.ps 17
def Bank.ovr (b : Bank) : Bool := bit b.ps 16
def Bank.cc (b : Bank) : Nat := fld b.ps 15 14
def Bank.uip (b : Bank) : Bool := bit b.ps 12
def Bank.sig (b : Bank) : Bool := bit b.ps 13
def Bank.setCc (b : Bank) (v : Nat) : Bank := { b with ps := setFld b.ps 15 14 v }
def Bank.setSig (b : Bank) (v : Bool) : Bank := { b with ps := setFld b.ps 13 13 (b2n v) }
def Bank.setUip (b : Bank) (v : Bool) : Bank := { b with ps := setFld b.ps 12 12 (b2n v) }
def Bank.setOvr (b : Bank) : Bank := { b with ps := setFld b.ps 16 16 1 }
def Bank.setMode (b : Bank) (v : Bool) : Bank := { b with ps := setFld b.ps 17 17 (b2n v) }

/-- R356: privilege, key and cell of the level in use. -/
def whoOf (s : State) (c : Nat) : Who :=
  ⟨cellOf c, (curBank s c).priv, (curBank s c).akey⟩

/-- R96, R97: bit `i` of TE as it acts: DCO [3] and DCD [4] are forced by DTRAP_LOCK at Ledger and
Rule privilege. -/
def teBit (s : State) (c i : Nat) : Bool :=
  bit (curBank s c).te i || ((i = 3 || i = 4) && s.prot.dtrap && 2 ≤ (curBank s c).priv)

/-- R97: the value TE reads as. -/
def teRead (s : State) (c : Nat) : Word :=
  if s.prot.dtrap && 2 ≤ (curBank s c).priv then (curBank s c).te ||| 0x18 else (curBank s c).te

/-- A flag of FL is set. -/
def setFl (s : State) (c i : Nat) : State :=
  let b := curBank s c
  setBank s c { b with fl := setFld b.fl i i 1 }

/-- CC is set. -/
def setCc (s : State) (c v : Nat) : State := setBank s c ((curBank s c).setCc v)

/-- Why an instruction raises an exception (R351). -/
structure Exc where
  code : Nat
  info : Nat
  detail : Nat
  half : Bool
  isPair : Bool
  /-- A sealed range refused the access (R372). -/
  sealHit : Bool
  /-- Cycles from its start to the exception (R293, R314). -/
  cycles : Nat
  /-- Raised by an instruction that has started on the FP unit (R293). -/
  fp : Bool
  /-- Cycles of emulation among them (R267). -/
  emu : Nat
  deriving DecidableEq, Repr

def Exc.mk3 (code info detail : Nat) : Exc := ⟨code, info, detail, false, false, false, 2, false, 0⟩

/-- Why an instruction does not run to its end: an exception, without effect or with the effect of what
completed before it; far words still to be read (R276); a register pending (R275). -/
inductive Stop where
  | exc (e : Exc)
  | part (s : State) (cnt : Nat) (e : Exc)
  | far (ws : List Nat)
  | wait
  deriving DecidableEq, Repr

/-- An exception without effect. -/
def raise {α : Type} (code info detail : Nat) : Except Stop α := .error (.exc (Exc.mk3 code info detail))

/-- POISON_USE: INFO the reason, DETAIL payload [39:8] (R163, R351). -/
def poisonUse {α : Type} (w : TWord) : Except Stop α := raise 0x19 (fld w.tag 3 0) (fld w.pay 39 8)

/-- TAG_MISMATCH with the offending tag (R351). -/
def tagMismatch {α : Type} (info : Nat) (w : TWord) : Except Stop α := raise 7 info w.tag.toNat

def isPoison (w : TWord) : Bool := fld w.tag 7 4 = 15
def tagClass (w : TWord) : Nat := fld w.tag 7 4
def isFix (w : TWord) : Bool := tagClass w = 1
/-- FIX or RAW. -/
def isInt (w : TWord) : Bool := tagClass w ≤ 1
/-- R89: CONS, REC, VEC, FWD, CODE and LDEC. -/
def isPtr (w : TWord) : Bool :=
  let k := tagClass w
  k = 4 || k = 5 || k = 6 || k = 8 || k = 10 || k = 11
def isImm (w : TWord) : Bool := bit w.tag 3
def genOf (w : TWord) : Nat := fld w.tag 2 0
def fix (v : Word) : TWord := ⟨0x10, v⟩
def fixN (v : Nat) : TWord := ⟨0x10, BitVec.ofNat 64 v⟩
def fixI (v : Int) : TWord := ⟨0x10, BitVec.ofInt 64 v⟩
/-- A pointer of class `k`, immutable or not, generation 0. -/
def ptr (k : Nat) (imm : Bool) (a : Nat) : TWord :=
  ⟨BitVec.ofNat 8 (k * 16 + 8 * b2n imm), BitVec.ofNat 64 (a % 2 ^ 40)⟩

/-- Gk as it stands, whether pending or not. -/
def peekG (s : State) (c : Nat) (r : Reg) : TWord := (curBank s c).g[r]

/-- Gk as a source; a pending register makes the instruction wait (R275). -/
def rdG (s : State) (c : Nat) (r : Reg) : Except Stop TWord :=
  if bit (curBank s c).pend r.val then .error .wait else .ok (peekG s c r)

/-- The far loads of a queue that name Gk of a level no longer deliver to it: a newer value holds. -/
def dropFarG (q : List FarAcc) (n lvl : Nat) (r : Reg) : List FarAcc :=
  q.map fun f =>
    match f.kind with
    | .loadG m l (some k) a sz w => if m = n ∧ l = lvl ∧ k = r then { f with kind := .loadG m l none a sz w } else f
    | _ => f

def dropFarF (q : List FarAcc) (n : Nat) (r : Reg) : List FarAcc :=
  q.map fun f =>
    match f.kind with
    | .loadF m l (some k) a v => if m = n ∧ k = r then { f with kind := .loadF m l none a v } else f
    | _ => f

/-- Gk receives a word; it is no longer pending. -/
def wrG (s : State) (c : Nat) (r : Reg) (w : TWord) : State :=
  let b := curBank s c
  let s := setBank s c { b with g := b.g.set r w, pend := setFld b.pend r.val r.val 0, arr := tdel b.arr r.val }
  if bit b.pend r.val then
    setCore s c { getCore s c with far := dropFarG (getCore s c).far (ctxLevel s c).1 (ctxLevel s c).2 r }
  else s

/-- Gk becomes pending (R275). -/
def pendG (s : State) (c : Nat) (r : Reg) : State :=
  let b := curBank s c
  setBank s c { b with pend := setFld b.pend r.val r.val 1 }

/-- The F registers in use on a core. -/
def fRegs (s : State) (c : Nat) : Vector Word 32 :=
  if 256 ≤ c then (getCore s c).ownF
  else match (getCore s c).running with
    | some n => (getCtx s n).f
    | none => (getCore s c).ownF

/-- The F registers in use that are pending (R275). -/
def pendFOf (s : State) (c : Nat) : BitVec 32 :=
  match (getCore s c).running with
  | some n => (getCtx s n).pendF
  | none => (getCore s c).ownPendF

def rdF (s : State) (c : Nat) (r : Reg) : Except Stop Word :=
  if bit (pendFOf s c) r.val then .error .wait else .ok (fRegs s c)[r]

/-- Fk of the core's own F registers receives a word. -/
def Core.wrOwnF (k : Core) (r : Reg) (v : Word) : Core :=
  { k with ownF := k.ownF.set r v, ownPendF := setFld k.ownPendF r.val r.val 0, ownArrF := tdel k.ownArrF r.val
           far := dropFarF k.far ownRec r }

def wrF (s : State) (c : Nat) (r : Reg) (v : Word) : State :=
  if 256 ≤ c then setCore s c ((getCore s c).wrOwnF r v)
  else match (getCore s c).running with
    | some n =>
      let x := getCtx s n
      let s := setCtx s n { x with
        f := x.f.set r v, pendF := setFld x.pendF r.val r.val 0, arrF := tdel x.arrF r.val }
      setCore s c { getCore s c with far := dropFarF (getCore s c).far n r }
    | none => setCore s c ((getCore s c).wrOwnF r v)

def pendFReg (s : State) (c : Nat) (r : Reg) : State :=
  match (getCore s c).running with
  | some n => setCtx s n { getCtx s n with pendF := setFld (getCtx s n).pendF r.val r.val 1 }
  | none => setCore s c { getCore s c with ownPendF := setFld (getCore s c).ownPendF r.val r.val 1 }

-- what a core sees of memory: its own store buffer and posted far writes first (R274, R275)

/-- The posted writes of a core, oldest first. -/
def postedWrites (k : Core) : List PWrite :=
  k.sb ++ k.far.filterMap fun f => match f.kind with | .store w | .heal _ _ w => some w | _ => none

/-- The youngest write that covers byte `a`. -/
def overByte (ws : List PWrite) (a : Nat) : Option Byte :=
  ws.foldl (fun r w => if w.a ≤ a then (match w.bs[a - w.a]? with | some b => some b | none => r) else r) none

/-- The tag the youngest write gives the word that holds `a`. -/
def overTag (ws : List PWrite) (a : Nat) : Option Byte :=
  ws.foldl (fun r w => if w.a / 8 ≤ a / 8 ∧ a / 8 * 8 < w.a + w.bs.length then some w.tag else r) none

/-- A byte as a core sees it. Registers are read by loads alone; to any other access a byte of the control
space is open (log entry 39). -/
def seeByte (s : State) (c a : Nat) : Byte :=
  let p := physOf (cellOf c) a
  if 0xFF00000000 ≤ a then Config.ctlHole s.free a
  else (overByte (postedWrites (getCore s c)) p).getD (rdByte s.mem p)

def seeTag (s : State) (c a : Nat) : Byte :=
  let p := physOf (cellOf c) a
  (overTag (postedWrites (getCore s c)) p).getD (rdTag s.mem p)

def seeBytes (s : State) (c a n : Nat) : List Byte := (List.range n).map fun i => seeByte s c (a + i)

/-- The aligned word at `a` as the core sees it. -/
def seeWord (s : State) (c a : Nat) : TWord :=
  ⟨seeTag s c a, BitVec.ofNat 64 (beNat (seeBytes s c (a / 8 * 8) 8))⟩

/-- The address lies in installed DRAM. -/
def isDram (s : State) (a : Nat) : Bool := a < dramBytes s.part

/-- The far-read buffer in use on a core (R276). -/
def frbOf (s : State) (c : Nat) : Tbl TWord :=
  match (getCore s c).running with
  | some n => (getCtx s n).frb
  | none => (getCore s c).ownFrb

/-- A word that a whole-core instruction reads: a far word comes from the far-read buffer. -/
def wholeWord (s : State) (c a : Nat) : TWord :=
  if isDram s a then tget (seeWord s c a) (frbOf s c) (a / 8) else seeWord s c a

/-- Words (by number) of a byte range that lie in DRAM. -/
def dramWords (s : State) (a n : Nat) : List Nat :=
  if n = 0 then []
  else ((List.range ((a + n - 1) / 8 - a / 8 + 1)).map (· + a / 8)).filter fun w => isDram s (w * 8)

/-- R276: the far words of byte ranges that are not in the far-read buffer. -/
def farMiss (s : State) (c : Nat) (rs : List (Nat × Nat)) : List Nat :=
  (rs.flatMap fun r => dramWords s r.1 r.2).eraseDups.filter fun w => !((frbOf s c).any fun e => e.1 = w)

/-- R276: the far words of the ranges are in the far-read buffer; otherwise the instruction waits for
its pre-read. -/
def needFar (s : State) (c : Nat) (rs : List (Nat × Nat)) : Except Stop Unit :=
  let miss := farMiss s c rs
  if miss ≠ [] then .error (.far miss) else .ok ()

/-- Bytes that a whole-core instruction reads; a POISON word among them raises POISON_USE (R93). -/
def wholeBytes (s : State) (c a n : Nat) : Except Stop (List Byte) :=
  let ws := (List.range n).map fun i => (a + i, wholeWord s c (a + i))
  match ws.find? fun e => isPoison e.2 with
  | some e => poisonUse e.2
  | none => .ok (ws.map fun e => BitVec.ofNat 8 (e.2.pay.toNat / 256 ^ (7 - e.1 % 8)))

/-- The words that a write touches hold no POISON, or POISON_USE (R93). -/
def poisonFree (s : State) (c a n : Nat) : Except Stop Unit :=
  match ((List.range n).map fun i => wholeWord s c (a + i)).find? isPoison with
  | some w => poisonUse w
  | none => .ok ()

/-- R368: the round of the pre-read in use on a core that brought the word of address `a`, if one did: when it was
presented, and the tables of that time. -/
def judgedBy (s : State) (c a : Nat) : Option (Nat × Prot) :=
  let by' := match (getCore s c).running with | some n => (getCtx s n).frbBy | none => (getCore s c).ownFrbBy
  if (frbOf s c).any fun e => e.1 = a / 8 then (by'.find? fun r => r.1.contains (a / 8)).map (·.2) else none

/-- R368: steps 4 to 8 of R374 for a byte that an instruction of core `c` accesses: what it reads by way of the pre-read
was judged when that began. -/
def accessFail (s : State) (c : Nat) (k : Kind) (a : Nat) : Option (Nat × Bool) :=
  match judgedBy s c a, k with
  | some (t, p), .read => byteFail { s with prot := p, now := t } (whoOf s c) .read a
  | some (t, p), .both =>
    (byteFail { s with prot := p, now := t } (whoOf s c) .read a).orElse fun _ => byteFail s (whoOf s c) .write a
  | _, _ => byteFail s (whoOf s c) k a

/-- R374 steps 4 to 8 for an operand. -/
def checkBytes (s : State) (c : Nat) (k : Kind) (info a n : Nat) : Except Stop Unit :=
  match failFirst (accessFail s c k) a n with
  | some (b, code, sl) => .error (.exc { Exc.mk3 code info (b / 256 % 2 ^ 32) with sealHit := sl })
  | none => .ok ()

-- far accesses and writes

/-- R184: a write still on its way to the card byte of a mark takes the mark with it. -/
def markOver (k : Nat × Nat) (w : PWrite) : PWrite :=
  if w.a ≤ k.1 ∧ k.1 < w.a + w.bs.length then
    { w with bs := w.bs.modify (k.1 - w.a) (· ||| BitVec.ofNat 8 (2 ^ k.2)), tag := 0, st8 := false }
  else w

/-- R184: the mark, an atomic OR at the memory that holds the card byte, after the core's older stores to it. The word is
tagged RAW whatever it held, POISON too: a mark raises nothing (log entry 127). -/
def cardMark (s : State) (c : Nat) (k : Option (Nat × Nat)) : State :=
  match k with
  | none => s
  | some (a, b) =>
    let x := getCore s c
    let s := setCore s c { x with
      sb := x.sb.map (markOver (a, b))
      far := x.far.map fun f =>
        match f.kind with
        | .store w => { f with kind := .store (markOver (a, b) w) }
        | .heal old k w => { f with kind := .heal old k (markOver (a, b) w) }
        | _ => f }
    applyWrite s ⟨a, [rdByte s.mem a ||| BitVec.ofNat 8 (2 ^ b)], 0, false⟩

/-- What a read of the DRAM word at `a` delivers (R91). -/
def dramWord (err : DramErr) (a : Nat) (w : TWord) : TWord :=
  if err = .double then ⟨0xF4, BitVec.ofNat 64 (a / 8 * 8)⟩ else w

/-- POISON_USE of the word at `a`, met at the address `ia` (R163). -/
def poisonPend (ia : Addr) (a : Nat) : Pend := ⟨ia, 0x19, 4, a / 8 * 8 / 256 % 2 ^ 32, false, false⟩

/-- R91, R163: a far load of level `lvl` that uses the word at `a` as a value finds it spoiled when its data arrives in
cycle `t`: its register keeps its value and POISON_USE comes at the level's next sampling point, after an exception that
is pending there (log entry 110). -/
def latePoison (s : State) (c n lvl a t : Nat) : State :=
  if n = ownRec then
    setCore s c { getCore s c with exc := some ((getCore s c).exc.getD (poisonPend (getCore s c).own.ia a)) }
  else setCtx s n { getCtx s n with late := (getCtx s n).late ++ [(lvl, a, t)] }

/-- R163: the spoiled load of which the level in use still owes its POISON_USE: address and cycle of arrival. -/
def lateDue (x : Ctx) : Option (Nat × Nat) := (x.late.find? fun e => e.1 = x.level).map (·.2)

/-- The words of a pre-read as they arrive; a DRAM error is met by the first of them (log entry 9). -/
def preReadWords (s : State) (c : Nat) (err : DramErr) (t : Tbl TWord) : List Nat → Tbl TWord
  | [] => t
  | w :: r => preReadWords s c .clean (tset t w (dramWord err (w * 8) (seeWord s c (w * 8)))) r

/-- R276: the words of a pre-read of context `n` reach its far-read buffer in cycle `t`. -/
def landPre (s : State) (c n : Nat) (err : DramErr) (ws : List Nat) (t : Nat) : State :=
  let x := getCtx s n
  let k := getCore s c
  if n = ownRec then setCore s c { k with ownFrb := preReadWords s c err k.ownFrb ws, ownFrbAt := max k.ownFrbAt t } else
  setCtx s n { x with frb := preReadWords s c err x.frb ws, frbAt := max x.frbAt t }

/-- The bank of level `lvl` of context `n`, or the own bank of core `c`. -/
def recBank (s : State) (c n lvl : Nat) : Bank := if n = ownRec then (getCore s c).own else (getCtx s n).bankOf lvl

def setRecBank (s : State) (c n lvl : Nat) (b : Bank) : State :=
  if n = ownRec then setCore s c { getCore s c with own := b } else setCtx s n ((getCtx s n).setBankOf lvl b)

/-- An access of the far queue of core `c` completes (R275, R276, R327). -/
def deliver (s : State) (c : Nat) (f : FarAcc) (err : DramErr) : State :=
  let t := f.start / cyc + 640
  match f.kind with
  | .store w => applyWrite s w
  | .heal old card w => if rdWord s.mem w.a = old then cardMark (applyWrite s w) c card else s
  | .loadG n lvl (some r) a sz w =>
    let b := recBank s c n lvl
    let pend := setFld b.pend r.val r.val 0
    if err = .double && !(sz = 8 && a % 8 = 0) then
      latePoison (setRecBank s c n lvl { b with pend := pend }) c n lvl a t
    else
      setRecBank s c n lvl { b with g := b.g.set r (dramWord err a w), pend := pend, arr := tset b.arr r.val t }
  | .loadF n lvl (some r) a v =>
    let x := getCtx s n
    let k := getCore s c
    if n = ownRec then
      let pend := setFld k.ownPendF r.val r.val 0
      if err = .double then latePoison (setCore s c { k with ownPendF := pend }) c n lvl a t
      else setCore s c { k with ownF := k.ownF.set r v, ownPendF := pend, ownArrF := tset k.ownArrF r.val t }
    else
      let pend := setFld x.pendF r.val r.val 0
      if err = .double then latePoison (setCtx s n { x with pendF := pend }) c n lvl a t
      else setCtx s n { x with f := x.f.set r v, pendF := pend, arrF := tset x.arrF r.val t }
  | .pre n ws => landPre s c n err ws t
  | .loadG .. | .loadF .. => s

/-- The oldest far access of a core completes. -/
def completeOldest (s : State) (c : Nat) (err : DramErr) : State :=
  match (getCore s c).far with
  | [] => s
  | f :: r =>
    let k := getCore s c
    let s := setCore s c { k with far := r, hist := ((f.start / cyc, f.words) :: k.hist).take 32 }
    deliver { s with now := max s.now (f.start + 640 * cyc) } c f err

/-- Words a core has outstanding (R277). -/
def farWords (k : Core) : Nat := (k.far.map FarAcc.words).sum

/-- The far accesses of a core, oldest first: start cycle and words. -/
def farStarts (k : Core) : List (Nat × Nat) := k.hist.reverse ++ k.far.map fun f => (f.start / cyc, f.words)

/-- A far access joins the queue. -/
def pushFar (s : State) (c : Nat) (f : FarAcc) : State :=
  setCore s c { getCore s c with far := (getCore s c).far ++ [f] }

/-- Words that a byte range touches. -/
def wordSpan (a n : Nat) : Nat := if n = 0 then 0 else (a + n - 1) / 8 - a / 8 + 1

/-- The store buffer drains its oldest entry (R274). -/
def drainOne (s : State) (c : Nat) : State :=
  match (getCore s c).sb with
  | [] => s
  | w :: r => applyWrite (setCore s c { getCore s c with sb := r }) w

/-- The store buffer drains wholly. -/
def drainAll (s : State) (c : Nat) : State :=
  let s' := applyWrites s (getCore s c).sb
  setCore s' c { getCore s' c with sb := [] }

/-- A whole-core instruction's write: at once to cell memory, posted to DRAM, where it starts at `t`. -/
def wholeWriteAt (s : State) (c t : Nat) (w : PWrite) : State :=
  let w := { w with a := physOf (cellOf c) w.a }
  if w.bs = [] then s
  else if isDram s w.a then
    pushFar s c ⟨.store w, t, wordSpan w.a w.bs.length⟩
  else applyWrite s w

/-- R276: a far write is posted at the retirement of its instruction. -/
def wholeWrite (s : State) (c : Nat) (w : PWrite) : State := wholeWriteAt s c 0 w

/-- R277: the cycle in which a far access of `n` words finds room behind those before it. -/
def farFree (n : Nat) : List (Nat × Nat) → Nat
  | [] => 0
  | f :: r => if ((f :: r).map (·.2)).sum + n ≤ 32 then 0 else max (f.1 + 640) (farFree n r)

/-- R276, R277: the writes that an instruction posts start when it retires, at `t`, or when there is room behind
the accesses `h` before them. -/
def stampFar (t : Nat) : List (Nat × Nat) → List FarAcc → List FarAcc
  | _, [] => []
  | h, f :: r =>
    let st := if f.start = 0 then max t (farFree f.words h * cyc) else f.start
    { f with start := st } :: stampFar t (h ++ [(st / cyc, f.words)]) r

def wholeWrites (s : State) (c : Nat) : List PWrite → State
  | [] => s
  | w :: r => wholeWrites (wholeWrite s c w) c r

/-- R274: a store enters the two-entry store buffer; a full buffer drains one first. One that touches a
heap-control block is judged in its place among them (R179). -/
def bufferStore (s : State) (c : Nat) (w : PWrite) : State :=
  let w := { w with a := physOf (cellOf c) w.a }
  if touchesHeap w then applyWrite (drainAll s c) w else
  let s := if 2 ≤ (getCore s c).sb.length then drainOne s c else s
  setCore s c { getCore s c with sb := (getCore s c).sb ++ [w] }

-- budget (R67, R68)

/-- The budget-overrun state shows in PS of every level. -/
def Ctx.setOvr (x : Ctx) : Ctx :=
  { x with
    base := x.base.setOvr
    gates := x.gates.map fun g => { g with bank := g.bank.setOvr }
    exc := x.exc.map fun e => { e with bank := e.bank.setOvr }
    ovrp := true }

/-- R67, R68: the budget counter, or the abort window, runs for `k` cycles. -/
def Ctx.charge (x : Ctx) (k : Nat) : Ctx :=
  if x.base.ovr then { x with win := x.win - k }
  else if k < x.bcnt then { x with bcnt := x.bcnt - k }
  else { x.setOvr with bcnt := 0, win := 7600 - (k - x.bcnt) }

/-- The running context of a core is charged. -/
def chargeCore (s : State) (c k : Nat) : State :=
  match (getCore s c).running with
  | some n => if c < 256 then setCtx s n ((getCtx s n).charge k) else s
  | none => s

-- the schedule (R270 to R273)

/-- R270: what a pipelined instruction starts on; `none` where the table of stations names no unit for it
(branches, TAGS, FCMP, FCVT and FMOV, log entry 94). -/
inductive Fu where
  | none | alu | alus | mul | div | fadd | fmul | fdiv | load | store
  deriving DecidableEq, Repr

/-- How an instruction is scheduled: whole-core or pipelined, into FM or IT, on a unit, with the resources
it reads and delivers. -/
structure Tm where
  whole : Bool
  fm : Bool
  unit : Fu
  /-- Sources; those of a whole-core instruction that no address depends on stand in `data`. -/
  srcs : List Nat
  data : List Nat
  dsts : List Nat
  deriving DecidableEq, Repr

def Tm.core (srcs : List Nat) (data : List Nat := []) : Tm := ⟨true, false, .none, srcs, data, []⟩
def Tm.pipe (srcs dsts : List Nat) : Tm := ⟨false, false, .none, srcs, [], dsts⟩
def Tm.alu (srcs dsts : List Nat) : Tm := ⟨false, false, .alu, srcs, [], dsts⟩
def Tm.all (m : Tm) : List Nat := m.srcs ++ m.data

/-- R272: the cycle by which far data had reached the registers `rs`, those of the level in use. -/
def arrived (s : State) (c : Nat) (rs : List Nat) : Nat :=
  let af := match (getCore s c).running with | some n => (getCtx s n).arrF | none => (getCore s c).ownArrF
  rs.foldl (fun m r => max m (if r < 32 then tget 0 (curBank s c).arr r else tget 0 af (r - 32))) 0

/-- R276: the cycle in which the far-read buffer in use on a core was complete. -/
def frbAt (s : State) (c : Nat) : Nat :=
  match (getCore s c).running with
  | some n => (getCtx s n).frbAt
  | none => (getCore s c).ownFrbAt

/-- R272: what an instruction's start waits for beyond the schedule: far data, and the pre-read. -/
def floorOf (s : State) (c : Nat) (m : Tm) : Nat :=
  max (arrived s c m.all) (if m.whole then frbAt s c else 0)

def readyAt (d : Sched) (rs : List Nat) : Nat := rs.foldl (fun m r => max m (tget 0 d.rdy r)) 0

/-- The cycle in which a station of `n` entries has one free. -/
def entryFree (starts : List Nat) (n : Nat) : Nat := (starts[n - 1]?).getD 0

/-- The first cycle from `t` on that no start claimed. -/
def unclaimed (claims : List Nat) : Nat → Nat → Nat
  | 0, t => t
  | fuel + 1, t => if claims.contains t then unclaimed claims fuel (t + 1) else t

/-- R274: the cycles in which buffered stores drain: in order, one a cycle, after the cycle in which they
enter, in cycles that no starting load or far access claims. -/
def drains (claims : List Nat) : Nat → List Nat → List Nat
  | _, [] => []
  | last, e :: r =>
    let t := unclaimed claims claims.length (max last e + 1)
    t :: drains claims t r

def Sched.drains (d : Sched) : List Nat := Machine.drains d.claims d.drained d.stores

/-- R274: the cycle from which a store starting at `st` finds an entry free. -/
def entryAt (d : Sched) (st : Nat) : Nat :=
  match (d.drains.filter fun x => st ≤ x).reverse with
  | _ :: x :: _ => x + 1
  | _ => st

/-- R272, R274: the start of a whole-core instruction: after the last retirement, its sources, and the
emptying of the store buffer. -/
def wholeStart (d : Sched) (r : Nat) (srcs : List Nat) : Nat :=
  max r (max d.t (max (readyAt d srcs) (match d.drains.getLast? with | some x => x + 1 | none => 0)))

/-- ALUs that an instruction starts on. -/
def alusOf : Fu → Nat
  | .alu => 1
  | .alus => 2
  | _ => 0

/-- The cycle in which the unit of an instruction is free for a start at `st` or later (R270, R274); a far
access claims the port. -/
def unitAt (d : Sched) (u : Fu) (far : Bool) (st : Nat) : Nat :=
  match u with
  | .none => st
  | .alu | .alus => if st = d.aluAt ∧ 2 < d.aluUsed + alusOf u then st + 1 else st
  | .mul => max st d.mul
  | .div => max st d.div
  | .fadd => max st d.fadd
  | .fmul => max st d.fmul
  | .fdiv => max st d.fdiv
  | .load => max st d.port
  | .store => if far then max st d.port else entryAt d st

/-- R270, R274: what a start at `st` claims. -/
def claimUnit (d : Sched) (u : Fu) (far : Bool) (st cnt : Nat) : Sched :=
  let gone := d.drains.filter fun x => x < st
  let left := d.stores.drop gone.length
  let last := gone.getLast?.getD d.drained
  let port := u = .load || (u = .store && far)
  { d with
    mul := if u = .mul then st + 1 else d.mul
    div := if u = .div then st + cnt else d.div
    fadd := if u = .fadd then st + 1 else d.fadd
    fmul := if u = .fmul then st + 1 else d.fmul
    fdiv := if u = .fdiv then st + cnt else d.fdiv
    port := if port then st + 1 else d.port
    aluAt := if alusOf u = 0 then d.aluAt else st
    aluUsed := if alusOf u = 0 then d.aluUsed else if st = d.aluAt then d.aluUsed + alusOf u else alusOf u
    stores := if u = .store && !far then left ++ [st] else left
    drained := last
    claims := (if port then st :: d.claims else d.claims).filter fun x => last < x }

/-- R272: one instruction of count `cnt`, whose results come after `dly` cycles and which retires after
`ret`; `br` for a branch; it starts in cycle `lo` or later, and `extra` cycles delay its start; `far` is the cycle
in which the queue of R277 has room for a far access. Gives the schedule, its start and the cycle of its
retirement. -/
def schedule (d : Sched) (r : Nat) (tm : Tm) (cnt dly ret : Nat) (br : Bool) (lo extra : Nat) (far : Option Nat) :
    Sched × Nat × Nat :=
  if tm.whole then
    let st := max lo (wholeStart d r tm.all) + extra
    ({ d with t := st + ret, sp := st, stores := [], claims := [] }, st, st + ret)
  else
    let t := max d.t (if tm.fm then entryFree d.fm 4 else entryFree d.it 4)
    let st := max (max t lo) (max d.sp (max (readyAt d tm.all) (far.getD 0)))
    let st := unitAt d tm.unit far.isSome st + extra
    let d := claimUnit d tm.unit far.isSome st cnt
    ({ d with
       t := if br then st + cnt else t + 1
       sp := st
       rdy := tm.dsts.foldl (fun m x => tset m x (st + dly)) d.rdy
       it := if tm.fm then d.it else (st :: d.it).take 4
       fm := if tm.fm then (st :: d.fm).take 4 else d.fm }, st, max (st + ret) (r + 1))

/-- What an instruction leaves when it completes. -/
structure Done where
  s : State
  cnt : Nat
  /-- A branch and its target; none when the next instruction follows. -/
  next : Option Addr
  isBranch : Bool
  /-- A far access: what it does, its words, and the exception its verdict will raise. -/
  far : Option (FarKind × Nat × Option Exc)
  /-- It uses the FP unit (R293). -/
  fp : Bool
  /-- Earliest retirement after its start. -/
  least : Nat
  /-- Stopped at a unit boundary, to be resumed (R215). -/
  atUnit : Bool
  /-- Cycles of emulation in its count (R267). -/
  emu : Nat
  deriving DecidableEq, Repr

def Done.of (s : State) (cnt : Nat) : Done := ⟨s, cnt, none, false, none, false, 0, false, 0⟩

/-- R137, R148: what the decoder knows of an instruction. -/
structure Run where
  c : Nat
  /-- The mode of its form; none where both modes share it. -/
  mode : Option Bool
  len : Nat
  /-- The offset of the byte that makes it undefined (R128). -/
  und : Option Nat
  tm : Tm
  /-- Its operands have an encoding. -/
  wf : Bool
  deriving DecidableEq, Repr

/-- The context a core runs. -/
def runningCtx (s : State) (c : Nat) : Option Nat := (getCore s c).running

/-- The boundary at which a core waits. -/
def boundary (k : Core) : Nat := max k.freeAt (k.sched.t * cyc)

/-- R67, R282, R350: the time of the first event that core `c` takes at a sampling point: the end of the budget, which an
exception level holds back, or a preemption. -/
def eventAt (s : State) (c : Nat) : Option Nat :=
  let k := getCore s c
  let b := match k.running with
    | some n =>
      let x := getCtx s n
      if x.exc.isSome then none
      else if x.ovrp then some (k.freeAt - (7600 - x.win) * cyc)
      else if x.base.ovr then none
      else some (k.freeAt + x.bcnt * cyc)
    | none => none
  match b, k.preempt with
  | some t, true => some (min t k.preAt)
  | none, true => some k.preAt
  | b, false => b

/-- R279, R332: an event of core `c`, or the end of its abort window, comes before what would start in cycle `st`. -/
def barred (s : State) (c st : Nat) : Bool :=
  (match eventAt s c with | some t => decide (t ≤ st * cyc) | none => false) ||
  (match (getCore s c).running with
   | some n => (getCtx s n).base.ovr && decide ((getCore s c).freeAt + (getCtx s n).win * cyc ≤ st * cyc)
   | none => false)

/-- The core is at a boundary and runs something in the mode given, and no exception stands before the next
instruction. -/
def coreReady (s : State) (c : Nat) (mode : Option Bool) : Bool :=
  let k := getCore s c
  decide (s.phase = .running) && decide (s.pwr.cur = 0) && coreExists s c && !k.dead &&
  k.exc.isNone && k.verdict.isNone && k.fetchWait.isEmpty && k.preWait.isEmpty && k.cut.isNone &&
  (match mode with | some m => (curBank s c).smode == m | none => true) &&
  (if 256 ≤ c then true
   else match k.running with
     | none => stewardEntry s c
     | some n =>
       let x := getCtx s n
       decide (x.st = .running) && (lateDue x).isNone && !(x.base.ovr && x.win = 0))

/-- R293, R326: cycles of the FP swap, made at the first FP use after a dispatch. -/
def swapCycles (s : State) (c : Nat) (fp : Bool) : Nat :=
  match (getCore s c).running with
  | some n => if fp && s.part.variant ≠ .e && !(getCtx s n).fpd then 70 else 0
  | none => 0

/-- The swap is made. -/
def doSwap (s : State) (c : Nat) : State :=
  match (getCore s c).running with
  | some n =>
    let s := setCtx s n { getCtx s n with fpd := true }
    setCore s c { getCore s c with fpBanks := (n :: (getCore s c).fpBanks.erase n).take 2 }
  | none => s

/-- R67: cycles of a swap that the budget counter does not see: those of a later dispatch. -/
def swapFree (s : State) (c : Nat) (swap : Nat) : Nat :=
  match (getCore s c).running with
  | some n => if (getCtx s n).firstRun then 0 else swap
  | none => 0

/-- R60, R67: the running context holds its core for `k` cycles, `skip` of them unseen by its budget counter. -/
def holdCore (s : State) (c k skip : Nat) : State :=
  let s := chargeCore s c (k - skip)
  match (getCore s c).running with
  | some n => if skip = 0 then s else setCtx s n { getCtx s n with held := (getCtx s n).held + skip }
  | none => s

/-- The emulation in progress at the level in use is over, unless execution goes on at its instruction (R268). -/
def endEmu (s : State) (c : Nat) (next : Option Addr) : State :=
  match (getCore s c).running with
  | some n =>
    let x := getCtx s n
    if x.emu = [] || next = some (tget (0, 0) x.emu x.level).1 then s
    else setCtx s n { x with emu := tdel x.emu x.level }
  | none => s

/-- An exception becomes pending at the boundary (R282), raised by an instruction that starts in cycle `st` or
later. The budget runs as long (R293). -/
def pendExc (s : State) (c st : Nat) (e : Exc) : State :=
  let k := getCore s c
  let swap := swapCycles s c e.fp
  let skip := swapFree s c swap
  let s := if e.sealHit then bump s 0x4000 3 else s
  let s := endEmu (if swap = 0 then s else doSwap s c) c none
  let r := max k.freeAt ((max k.sched.t st + swap + e.cycles) * cyc)
  let s := holdCore s c ((r - k.freeAt) / cyc) skip
  setCore { s with now := max s.now r } c
    { getCore s c with
      exc := some ⟨(curBank s c).ia, e.code, e.info, e.detail, e.isPair, e.half⟩
      freeAt := r
      sched := Sched.fresh (r / cyc) }

/-- Addresses at which two memories may differ: those listed in either, and the words whose tags are. -/
def touched (m m' : Memory) : List Nat :=
  let keys := fun (l : List Host.Cell) => l.map fun e => e.1
  (keys (m.bytes ++ m'.bytes) ++ (keys (m.tags ++ m'.tags)).map (· * 8)).eraseDups

/-- R332: what a run that leaves `t` would have written. -/
def wouldWrite (s t : State) (c : Nat) : List (Nat × Byte × Byte) :=
  let posted := ((getCore t c).far.drop (getCore s c).far.length).filterMap fun f =>
    match f.kind with | .store w | .heal _ _ w => some w | _ => none
  let ws := (getCore t c).sb ++ posted
  ((touched s.mem t.mem).filter fun a => rdByte s.mem a ≠ rdByte t.mem a || rdTag s.mem a ≠ rdTag t.mem a).map
      (fun a => (a, rdByte t.mem a, rdTag t.mem a)) ++
    ws.flatMap fun w => (w.bs.zipIdx).map fun e => (w.a + e.2, e.1, w.tag)

/-- R68, R332: a run that does not retire before the abort window ends does not retire: it is in progress when the STOP
comes. -/
def cutShort (s : State) (c : Nat) (t : State) : State :=
  match (getCore s c).running with
  | some n =>
    if (getCtx s n).base.ovr &&
       decide ((getCtx s n).win < ((getCore t c).freeAt - (getCore s c).freeAt) / cyc) then
      setCore s c { getCore s c with cut := some (wouldWrite s t c) }
    else t
  | none => t

/-- The outcome of an exception: it is pending, until EXCEPTION_ENTRY. -/
def takeExc (s : State) (c st : Nat) (e : Exc) : Out := .next (cutShort s c (pendExc s c st e))

/-- Lines of DRAM that an instruction's bytes lie in (R278). -/
def fetchLines (s : State) (a n : Nat) : List Nat :=
  ((List.range n).filterMap fun i => if isDram s (a + i) then some ((a + i) / 64) else none).eraseDups

/-- The fetch checks of R106 and chapter 11 on the first `n` bytes. -/
def fetchFail (s : State) (c n : Nat) : Option Exc :=
  let b := curBank s c
  match rangeFail s (whoOf s c) (.fetch b.smode) b.ia.toNat n with
  | some (a, code, sl) => some { Exc.mk3 code 0x0F (a / 256 % 2 ^ 32) with sealHit := sl }
  | none => none

/-- The far-read buffer in use is emptied. -/
def clearFrb (s : State) (c : Nat) : State :=
  match (getCore s c).running with
  | some n => setCtx s n { getCtx s n with frb := [], frbAt := 0, frbBy := [] }
  | none => setCore s c { getCore s c with ownFrb := [], ownFrbAt := 0, ownFrbBy := [] }

/-- A pre-read of context `n` that a switch left in progress delivers nowhere (R279). -/
def dropPre (q : List FarAcc) (n : Nat) : List FarAcc :=
  q.map fun f => match f.kind with | .pre m _ => if m = n then { f with kind := .pre m [] } else f | _ => f

/-- A pre-read of context `n` is still in progress in the queue. -/
def preOut (k : Core) (n : Nat) : Bool :=
  k.far.any fun f => match f.kind with | .pre m ws => m = n && ws ≠ [] | _ => false

/-- An instruction retires: schedule, budget, time, next address, PS.UIP (R216). A far access instead
waits for its verdict (R275); its emulation delays its start. -/
def retire (s : State) (q : Run) (d : Done) : State :=
  let k := getCore s q.c
  let r := k.freeAt / cyc
  let swap := swapCycles s q.c d.fp
  let skip := swapFree s q.c swap
  let dly := if d.far.isSome then 640 else d.cnt
  let ret := if d.far.isSome then 64 else max d.cnt d.least
  let p := schedule k.sched r q.tm d.cnt dly ret d.isBranch (floorOf s q.c q.tm)
    (swap + if d.far.isSome then d.cnt else 0) (d.far.map fun f => farFree f.2.1 (farStarts k))
  let ia := (curBank s q.c).ia
  let nx := if d.atUnit then ia else match d.next with | some a => a | none => ia + BitVec.ofNat 40 q.len
  let s' := endEmu (if swap = 0 then d.s else doSwap d.s q.c) q.c (some nx)
  match d.far with
  | some (kind, words, fail) =>
    let w : FarWait :=
      ⟨⟨kind, p.2.1 * cyc, words⟩,
       fail.map fun e => ⟨ia, e.code, e.info, e.detail, e.isPair, e.half⟩, nx, p.2.2, skip,
       (match fail with | some e => e.sealHit | none => false)⟩
    setCore { s' with free := s'.free + 1 } q.c { getCore s' q.c with verdict := some w, sched := p.1 }
  | none =>
    let s' := holdCore s' q.c (p.2.2 - r) skip
    let s' := setBank s' q.c ({ curBank s' q.c with ia := nx }.setUip d.atUnit)
    let k' := getCore s' q.c
    setCore { s' with now := max s'.now (p.2.2 * cyc), free := s'.free + 1 } q.c
      { k' with freeAt := p.2.2 * cyc, sched := p.1, far := stampFar (p.2.2 * cyc) k'.hist.reverse k'.far }

/-- The core stands `k` cycles after time `t`, or its boundary; its context is charged for them. -/
def spendTo (s : State) (c t k : Nat) : State :=
  let k0 := getCore s c
  let t := max (boundary k0) t + k * cyc
  let s := chargeCore s c ((t - k0.freeAt) / cyc)
  setCore { s with now := max s.now t } c
    { getCore s c with freeAt := t, sched := Sched.fresh (t / cyc), far := stampFar t k0.hist.reverse (getCore s c).far }

/-- The core stands `k` cycles after cycle `st`, or its boundary. -/
def spendFrom (s : State) (c st k : Nat) : State := spendTo s c (st * cyc) k

/-- The core stands `k` cycles after its boundary. -/
def spend (s : State) (c k : Nat) : State := spendFrom s c 0 k

/-- R68, R331: cycles from cycle `st` to the first event that core `c` is to take: the end of the budget, which an
exception level holds back, or a preemption. -/
def eventAfter (s : State) (c st : Nat) : Option Nat := (eventAt s c).map fun t => cdiv t cyc - st

/-- R268: the emulation routine samples every 594 cycles of its surcharge (log entry 111): the cycles after which an
event that comes after `ev` is taken inside it, if it is. -/
def emuCut (ev : Option Nat) (sur : Nat) : Option Nat :=
  match ev with
  | some b => let p := 594 * max 1 (cdiv b 594); if p < sur then some p else none
  | none => none

/-- R268: an emulation of which `left` cycles are to come stands at a sampling point; the FP instruction, at the
present address, has no effect yet. -/
def setEmu (s : State) (c left : Nat) : State :=
  match (getCore s c).running with
  | some n =>
    let x := getCtx s n
    setCtx s n { x with emu := tset x.emu x.level ((x.bankOf x.level).ia, left) }
  | none => s

/-- The cycle in which the instruction of a run starts. -/
def startOf (s : State) (q : Run) : Nat :=
  let k := getCore s q.c
  (schedule k.sched (k.freeAt / cyc) q.tm 0 0 0 false (floorOf s q.c q.tm) 0 none).2.1

/-- R268: what a run leaves when an event is taken inside its emulation, `sur` cycles long; none when none is. -/
def emuStop (s : State) (q : Run) (sur : Nat) : Option State :=
  (emuCut (eventAfter s q.c (startOf s q)) sur).map fun u =>
    spendFrom (setEmu (drainAll s q.c) q.c (sur - u)) q.c (startOf s q) u

/-- The state in which an instruction's body runs: a whole-core instruction drains the store buffer first
(R274), and its lines are held (R278). -/
def opened (s : State) (q : Run) : State :=
  let s0 := if q.tm.whole then drainAll s q.c else s
  setCore s0 q.c { getCore s0 q.c with lines := fetchLines s (curBank s q.c).ia.toNat q.len }

/-- What a body leaves: a whole-core instruction empties the far-read buffer (R276). -/
def closed (q : Run) (d : Done) : Done := if q.tm.whole then { d with s := clearFrb d.s q.c } else d

/-- R293: an exception of a run: UNDEFINED_INSTRUCTION, PRIVILEGED_INSTRUCTION and UNIT_ABSENT come 2 cycles after
issue, any other after the start and within the count, which is 1 on an ALU and for a store. -/
def raiseIn (s : State) (q : Run) (e : Exc) : Out :=
  if e.code = 1 ∨ e.code = 2 ∨ e.code = 3 then takeExc s q.c 0 e
  else
    let short := !q.tm.whole && (q.tm.unit = .alu || q.tm.unit = .alus || q.tm.unit = .store)
    takeExc s q.c (startOf s q) (if short && e.cycles = 2 then { e with cycles := 1 } else e)

/-- R277, R279: an event comes while a far access waits for room in the queue: the access is withdrawn. -/
def noRoom (s : State) (q : Run) (d : Done) : Bool :=
  match d.far with
  | some f => barred s q.c (farFree f.2.1 (farStarts (getCore s q.c)))
  | none => false

/-- What a body answered becomes the outcome of its run, unless an event is taken inside its emulation. -/
def settleDone (s : State) (q : Run) (d : Done) : State :=
  if noRoom s q d then s else cutShort s q.c ((emuStop s q d.emu).getD (retire s q (closed q d)))

def settleExc (s : State) (q : Run) (e : Exc) : Out :=
  match emuStop s q e.emu with
  | some t => .next (cutShort s q.c t)
  | none => raiseIn (clearFrb s q.c) q e

/-- R272, R276, R277: the pre-read of the words `ws` begins when the instruction has issued, its address registers
and an earlier round are there, and the queue has room, unless an event comes first (R279); a pre-read that a switch left in
progress goes on. -/
def beginPre (s : State) (q : Run) (ws : List Nat) : State :=
  let k := getCore s q.c
  let t := max (max k.sched.t (frbAt s q.c))
    (max (max (readyAt k.sched q.tm.srcs) (arrived s q.c q.tm.srcs)) (farFree ws.length (farStarts k)))
  if preOut k (ctxLevel s q.c).1 || barred s q.c t then s
  else judge { k with preWait := ws, waitAt := t * cyc } (ws, t * cyc, s.prot)
where
  /-- R368: the round is judged by the tables of its start. -/
  judge (k : Core) (r : List Nat × Nat × Prot) : State :=
    match k.running with
    | some n => setCtx (setCore s q.c k) n { getCtx s n with frbBy := r :: (getCtx s n).frbBy }
    | none => setCore s q.c { k with ownFrbBy := r :: k.ownFrbBy }

/-- R276, R279: of an instruction that an event withdraws before it starts, the pre-read may already have begun. -/
def earlyPre (s : State) (q : Run) (body : State → Except Stop Done) : State :=
  let ls := fetchLines s (curBank s q.c).ia.toNat q.len
  if q.und.isSome || (fetchFail s q.c q.len).isSome || ls.any fun l => !(getCore s q.c).lines.contains l then s
  else match body (opened s q) with
    | .error (.far ws) => beginPre (opened s q) q ws
    | _ => s

/-- The one run of an instruction: fetch checks and decoding byte by byte (R128), the DRAM fetch wait
(R278), then the body with its own checks, and retirement or the exception. A command that finds its core
not ready for it, waiting for a register, or asked to take an event before it starts (R279), changes nothing. -/
def runCore (s : State) (q : Run) (body : State → Except Stop Done) : Out :=
  if !(q.wf && coreReady s q.c q.mode) then .next s
  else if barred s q.c (startOf s q) then .next (earlyPre s q body)
  else
    let ia := (curBank s q.c).ia.toNat
    let seen := match q.und with | some o => min q.len (o + 1) | none => q.len
    match fetchFail s q.c seen with
    | some e => takeExc s q.c 0 e
    | none =>
      let k := getCore s q.c
      let ls := fetchLines s ia seen
      if ls.any fun l => !k.lines.contains l then
        .next (setCore s q.c { k with fetchWait := ls, waitAt := boundary k })
      else
        match q.und with
        | some o => takeExc s q.c 0 (Exc.mk3 1 0 o)
        | none =>
          let s0 := opened s q
          match body s0 with
          | .ok d => .next (settleDone s0 q d)
          | .error (.exc e) => settleExc s0 q e
          | .error (.part s1 cnt e) => takeExc (clearFrb (spendFrom s1 q.c (startOf s0 q) cnt) q.c) q.c 0 e
          | .error (.far ws) => .next (beginPre s0 q ws)
          | .error .wait => .next s

/-- R4: a variant carries the binary FP unit. -/
def hasFp (s : State) : Bool := s.part.variant ≠ .e

/-- R347: a stack pointer that a frame can be written below. -/
def stackOk (s : State) (c : Nat) (x : Ctx) (w : TWord) : Bool :=
  let p := w.pay.toNat
  let skey := fld (getCell s (c / 4)).ccfg1 51 48
  tagClass w = 5 && !isImm w && p < 2 ^ 40 && p % 64 = 0 && x.slim.toNat + 384 ≤ p &&
  0xFE00000000 + 384 ≤ p && p ≤ 0xFE00000000 + cellBytes &&
  (rangeFail s ⟨some (c / 4), 1, skey⟩ .write (p - 384) 384).isNone

/-- R268: the surcharge still to come of the instruction at the present address, if its emulation is in progress. -/
def emuLeft (s : State) (c : Nat) : Option Nat :=
  match (getCore s c).running with
  | some n =>
    let x := getCtx s n
    let e := tget (0, 0) x.emu x.level
    if e.2 ≠ 0 ∧ e.1 = (curBank s c).ia then some e.2 else none
  | none => none

/-- R6, R265, R340: an FP operation of the binary FP unit: the surcharge still to be paid when it is emulated, or
UNIT_ABSENT. The emulation routine is a Supervisor gate level: it is entered under the checks 6 and 9 of R337. -/
def fpUnit (s : State) (c surcharge : Nat) : Except Stop Nat :=
  if hasFp s then .ok 0
  else match (getCore s c).running with
    | some n =>
      let x := getCtx s n
      if x.sel.emu then
        if (emuLeft s c).isNone && decide (s.adm.gdepth ≤ x.depth) then raise 0x16 s.adm.gdepth 0
        else if decide (2 ≤ (curBank s c).priv) && !stackOk s c x x.ssp then raise 0x1A 0 0
        else .ok ((emuLeft s c).getD surcharge)
      else raise 3 1 0
    | none => raise 3 1 0

/-- R267, R293: what an FP operation of `cnt` cycles with `x` cycles of emulation raises comes at its end when it is
emulated, and after the swap. -/
def fpStop {α : Type} (cnt x : Nat) (r : Except Stop α) : Except Stop α :=
  match r with
  | .error (.exc e) => .error (.exc { e with fp := true, emu := x, cycles := if x = 0 then e.cycles else cnt + x })
  | r => r

/-- An instruction of the binary FP unit: its count `cnt` with the surcharge. -/
def fpRun (s : State) (c sur cnt : Nat) (body : Except Stop Done) : Except Stop Done := do
  let x ← fpUnit s c sur
  let d ← fpStop cnt x body
  .ok { d with cnt := d.cnt + x, fp := true, emu := x }

end Sys2Proof.Machine
end

