-- ==== Sys2Proof/Machine/Wire.lean ====
section
/-! DEFINITION. Messages onto the wire: fragments, credits, priorities and free reply times (R395, R398, R404) and the data flits kept
for replay (R394). Each fragment goes in one data flit of its own (log entry 27). -/

namespace Sys2Proof.Machine

/-- Element `i` of a list of credits, and the list with it replaced. -/
def credit (l : List Nat) (i : Nat) : Nat := l.getD i 0
def setCredit (l : List Nat) (i v : Nat) : List Nat := l.set i v

/-- R398, R404: data words in a fragment of the device, beside its header: VC0 29, other channels 11 on T1 x1. -/
def fragWords (x : Port) (vc : Nat) : Nat := if vc ≠ 0 ∧ x.gen = 1 ∧ x.width = 1 then 11 else 29

/-- R395: credits that a fragment of `w` data words takes. -/
def fragCost (w : Nat) : Nat := cdiv (8 + 8 * w) 64

/-- R383: time of a flit on a port, ps. -/
def flitPs (x : Port) : Nat :=
  (match x.gen with | 2 => 81920 | 3 => 20480 | _ => 409600) / max 1 x.width

/-- R403: time of `n` bytes at the port payload rate, ps. -/
def wirePs (x : Port) (n : Nat) : Nat := flitPs x * n / 256

/-- R403: a time of the manual is met within 16 bytes at the port payload rate. -/
def wireSlack (x : Port) : Nat := flitPs x / 16

/-- The replies of a session leave on port `p`. -/
def repliesOn (s : State) (session p : Nat) : Bool := s.sessions.any fun y => y.id = session && y.st = 3 && y.port = p

/-- R404: when the replies known on a port fall due: of a released request, of a record whose release conditions hold,
and of a duplicate whose result is known. -/
def knownDues (s : State) (p : Nat) : List Nat :=
  (s.adm.reqs.filterMap fun r => if r.st = .released && repliesOn s r.session p then some (r.at' + 1600000) else none) ++
  (s.jrn.ring.filterMap fun r =>
    match r.tx with
    | some t =>
      if r.ringDone && (r.acked || !r.sent) && !r.replied && repliesOn s t.session p then
        some (max r.ringAt r.ackAt + 200000)
      else none
    | none => none) ++
  (s.adm.owed.filterMap fun d => if d.res.isSome && repliesOn s d.session p then some d.dueAt else none)

/-- R404: a fragment of `w` data words that begins at `t` on channel `vc` is off the wire before a known reply falls
due; the replies' own channel is not asked. -/
def replyClear (s : State) (p vc w t : Nat) : Bool :=
  vc = 0 || !((knownDues s p).any fun d => t ≤ d && d < t + wirePs (getPort s p) (8 + 8 * w))

/-- R395: a fragment of a message with `w` words left may leave: room for replay, and the credit it takes. -/
def fragFits (x : Port) (vc w : Nat) : Bool :=
  x.replay.length < 1024 && fragCost (min (fragWords x vc) w) ≤ credit x.credits vc

/-- R389, R390, R453: sequenced flits leave: the device is not silent, and the port is UP and out of idle. -/
def flows (s : State) (p : Nat) : Bool := s.phase ≠ .silent && (getPort s p).ls = .up && !(getPort s p).idle

/-- R395, R404: the order in which the channels are served. -/
def txPrio (m : TxMsg) : Nat :=
  match m.vc, m.e with
  | 0, _ => 0
  | 3, .tdq .. => 1
  | 2, _ => 2
  | 3, _ => 3
  | _, _ => 4

/-- A message of `n` body bytes could begin at once on channel `vc`. -/
def canSend (s : State) (p vc n : Nat) : Bool :=
  let x := getPort s p
  flows s p && fragFits x vc (n / 8) && !(x.waiting.any fun m => m.vc = vc) &&
  replyClear s p vc (min (fragWords x vc) (n / 8)) s.now

/-- R398, R404: the lowest stream of a channel that no message in progress has: one that waits for the rest of its
fragments, or the TRP on the wire. -/
def freeStrm (s : State) (x : Port) (vc : Nat) : Nat :=
  ((List.range 16).find? fun k =>
    !(x.waiting.any fun m => m.vc = vc && m.begun && m.strm = k) && !(vc = 0 && s.now < x.trpEnd && x.trpStrm = k)).getD 0

/-- R500: a reply, a record or an MRC, which no device below Gale has waiting. -/
def isBusiness (e : Emit) : Bool :=
  match e with
  | .ack .. | .ref .. | .trp .. | .jrd .. | .mrs .. | .mrc .. => true
  | _ => false

/-- The first bit of a message leaves; it takes no time here (log entry 124). An MRC is counted off those of a rejoin (R436), and its record is sent now
(R78). R499: the device is calm from the last reply, record or MRC on. -/
def leave (s : State) (m : TxMsg) : State :=
  let s := if isBusiness m.e then { s with pwr := { s.pwr with calmAt := s.now } } else s
  match m.e with
  | .mrc st q _ _ =>
    emit { s with
      pair := { s.pair with sending := s.pair.sending - 1 }
      jrn := { s.jrn with ring := s.jrn.ring.map fun r => if r.stream = st ∧ r.seq = q then { r with sentAt := s.now } else r } } m.e
  | e => emit s e

/-- R395, R398, R404: fragments of a message leave one after the other from time `t` on, as far as replay, credits and the
replies known allow; what is left of it, or none. -/
def sendFrags (s : State) (p : Nat) (m : TxMsg) (t : Nat) : Nat → State × Option TxMsg
  | 0 => (s, some m)
  | n + 1 =>
    let x := getPort s p
    let w := min (fragWords x m.vc) m.left
    if fragFits x m.vc m.left && replyClear s p m.vc w t then
      let s1 := setPort s p { x with
        credits := setCredit x.credits m.vc (credit x.credits m.vc - fragCost w)
        txSeq := x.txSeq + 1
        replay := x.replay ++ [⟨x.txSeq + 1, s.now, m.strm, if m.left = w then m.reply else none⟩] }
      let s1 := if m.begun then s1 else leave s1 m
      if m.left = w then (s1, none)
      else sendFrags s1 p { m with left := m.left - w, begun := true } (t + wirePs x (8 + 8 * w)) n
    else (s, some m)

/-- A message of `n` body bytes goes to port `p` on channel `vc`; `r` is the message when it is a reply. What cannot
leave waits, behind what waits on its channel (R386, R394, R395). -/
def sendOn (s : State) (p vc n : Nat) (r : Option Emit) (e : Emit) : State :=
  let m : TxMsg := ⟨vc, freeStrm s (getPort s p) vc, n / 8, false, r, e⟩
  let q := if canSend s p vc n then sendFrags s p m s.now (n / 8 + 1) else (s, some m)
  match q.2 with
  | some m => let x := getPort q.1 p; setPort q.1 p { x with waiting := x.waiting ++ [m] }
  | none => q.1

/-- The waiting messages of one priority leave as far as they can, in order. -/
def pumpPrio (s : State) (p k : Nat) : Nat → State
  | 0 => s
  | n + 1 =>
    match (getPort s p).waiting.find? fun m => txPrio m = k with
    | none => s
    | some m =>
      let q := sendFrags (setPort s p { getPort s p with waiting := (getPort s p).waiting.erase m }) p m s.now (m.left + 1)
      match q.2 with
      | none => pumpPrio q.1 p k n
      | some m => let x := getPort q.1 p; setPort q.1 p { x with waiting := m :: x.waiting }

/-- R395, R404: what waits on a port leaves as far as it can, the channels in their priorities. -/
def pumpTx (s : State) (p : Nat) : State :=
  if flows s p then (List.range 5).foldl (fun t k => pumpPrio t p k ((getPort t p).waiting.length + 1)) s else s

end Sys2Proof.Machine
end

