-- ==== Sys2Proof/Machine/Notice.lean ====
section
/-! DEFINITION. Ledger time as it reads (R458, R459), notices on VC2 (R409), the CAN FD output guard
(R463), EMCY (R527, R535), the Barometer log and alerts (R443, R444), and fail-silent (R453). -/

namespace Sys2Proof.Machine

/-- Time passes up to `t`. -/
def passTo (s : State) (t : Nat) : State := { s with now := max s.now t }

/-- R459: how long, in ps, a slew lasts: 5,000 ns for each nanosecond of offset. -/
def slewPs (t : LedgerTime) : Nat := t.left.natAbs * 5000000

/-- Picoseconds of ledger time since `since`, times 10^6: slewed until the offset is absorbed. -/
def slewed (t : LedgerTime) (now : Nat) : Nat :=
  let e := min (now - t.since) (slewPs t)
  e * (1000000 + t.ppm).toNat + (now - t.since - e) * 1000000

/-- Periods of the 32.768 kHz crystal in a time, and since the last power-on reset (R444: the holdover count). -/
def crystalAt (t : Nat) : Nat := t * 32768 / 1000000000000
def crystalCount (s : State) : Nat := crystalAt (s.now - s.pwr.upAt)

/-- R506: the holdover counter beyond `base`, in 1/64 ns: 1,953,125 for each crystal period, with the fraction that
earlier stays have left. -/
def heldOver (t : LedgerTime) (now : Nat) : Nat := t.frac + (crystalAt now - crystalAt t.since) * 1953125

/-- R506: what the holdover counter keeps beside whole nanoseconds. -/
def timeFrac (s : State) : Nat := if s.time.holdover then heldOver s.time s.now % 64 else s.time.frac

/-- R458, R506: ledger time in ns; 0 while it does not run. -/
def ledgerNow (s : State) : Nat :=
  if !s.time.running then 0
  else if s.time.holdover then s.time.base + heldOver s.time s.now / 64
  else s.time.base + slewed s.time s.now / 1000000000

/-- R459: what is left of the offset being absorbed. -/
def slewLeft (s : State) : Int :=
  let done : Int := ((s.now - s.time.since) / 5000000 : Nat)
  if 0 ≤ s.time.left then max 0 (s.time.left - done) else min 0 (s.time.left + done)

/-- The moment, not before now, at which ledger time reads `l`. -/
def atLedger (s : State) (l : Nat) : Nat :=
  let need := (l - s.time.base) * 1000000000
  let rate := (1000000 + s.time.ppm).toNat
  let slewing := slewPs s.time * rate
  max s.now (s.time.since +
    (if need ≤ slewing then cdiv need rate else slewPs s.time + cdiv (need - slewing) 1000000))

/-- A second and a millisecond in picoseconds. -/
def second : Nat := 1000000000000
def milli : Nat := 1000000000
def micro : Nat := 1000000

/-- R443: the watchdog restarts with a full period. -/
def wdResume (s : State) : State :=
  { s with baro := { s.baro with wdAt := s.baro.wdAt.map fun _ => s.now } }

/-- R553, R499: MEMn_RESET_N and the memory ports are driven. -/
def driveMem (s : State) (reset : Bool) (pins : MemPins) : State :=
  if s.pwr.memReset = reset && s.pwr.memPins = pins then s
  else emit { s with pwr := { s.pwr with memReset := reset, memPins := pins } } (.mem reset pins)

/-- R390: an idle exchange that was begun is over. -/
def Port.dropExchange (x : Port) : Port := { x with idleAsked := false, idleHeard := false, idleAcked := false }

/-- R516: the entry of Breeze or Drizzle is abandoned; a wake source during that of Mist or Frost waits for its end,
the lower code of two. -/
def unsettle (s : State) (src : Nat) : State :=
  match s.pwr.entering with
  | none => s
  | some (r, _) =>
    if r < 3 then { s with
      pwr := { s.pwr with entering := none }
      ports := s.ports.map fun e => (e.1, e.2.dropExchange) }
    else { s with pwr := { s.pwr with wakeDue := some (match s.pwr.wakeDue with | some w => min w src | none => src) } }

/-- R499, R501, R503: a device in Breeze or Drizzle wakes; `src` is the code of WSRC. -/
def stir (s : State) (src : Nat) : State :=
  let s := unsettle s src
  if s.pwr.entering.isNone && (s.pwr.cur = 1 || s.pwr.cur = 2) then
    let s1 := driveMem (wdResume { s with now := s.now + (if s.pwr.cur = 1 then 100000 else 1000000) }) true .active
    { s1 with pwr := { s1.pwr with cur := 0, wsrc := src, calmAt := s1.now } }
  else s

/-- The device runs its engines: it is in service, above Mist (R499). -/
def alive (s : State) : Bool := s.phase = .running && s.pwr.cur < 3

/-- The session of a port is ACTIVE (R412). -/
def portActive (s : State) (p : Nat) : Bool := (getPort s p).sstate = 3

/-- Ports whose session is ACTIVE, lowest first. -/
def activePorts (s : State) : List Nat := (List.range 8).filter (portActive s)

/-- R26, R409: the port may send a notice now; x0006 alone is exempt from the limit. -/
def mntFits (x : Port) (now code : Nat) : Bool :=
  code = 6 || (x.mntTimes.filter fun t => now < t + second).length < 1000

/-- R409: an MNT leaves, with the number dropped since the one before. -/
def sendMnt (s : State) (p code : Nat) (d : Word) : State :=
  let x := getPort s p
  let x' := { x with mntTimes := s.now :: (x.mntTimes.filter fun t => s.now < t + second), mntDropped := 0 }
  sendOn (setPort s p x') p 2 16 none (.mnt p code x.mntDropped d)

/-- R409: a notice beyond the limit is dropped and counted. -/
def dropMnt (s : State) (p : Nat) : State :=
  bump (setPort s p { getPort s p with mntDropped := (getPort s p).mntDropped + 1 }) 0x4006 (p + 1)

/-- The notices that wait on a port leave as far as the link and its credits allow; the limit is judged as each
leaves. -/
def flushMnt (s : State) (p : Nat) : Nat → State
  | 0 => s
  | n + 1 =>
    match (getPort s p).mnts with
    | (code, d) :: r =>
      if canSend s p 2 16 then
        let s1 := setPort s p { getPort s p with mnts := r }
        flushMnt (if mntFits (getPort s p) s.now code then sendMnt s1 p code d else dropMnt s1 p) p n
      else s
    | [] => s

/-- R409: one MNT on one port. -/
def mntPort (s : State) (code : Nat) (detail : Word) (p : Nat) : State :=
  let x := getPort s p
  flushMnt (setPort s p { x with mnts := x.mnts ++ [(code, detail)] }) p (x.mnts.length + 1)

/-- R409: a notice to every ACTIVE session. -/
def mntAll (s : State) (code : Nat) (detail : Word) : State :=
  (activePorts s).foldl (fun s p => mntPort s code detail p) s

/-- A notice whose detail the spec does not state (log entry 21). -/
def notice (s : State) (code : Nat) : State :=
  mntAll { s with free := s.free + 1 } code (Config.noticeDetail s.free)

/-- R535: the error register x1001. -/
def errReg (s : State) : Nat :=
  let b := s.baro.src
  b2n (b ≠ 0) + 4 * b2n (bit b 0x11) + 8 * b2n (bit b 0x12) + 16 * b2n (s.mgmt.bus = 1) +
  128 * b2n (b &&& 0xFFF9FFFF ≠ 0)

/-- R463: frames of the last second. -/
def lastSecond (now : Nat) (ts : List Nat) : List Nat := ts.filter fun t => now < t + second

/-- R463: a frame is within the output limits. -/
def frameFits (s : State) (emcy : Bool) : Bool :=
  (lastSecond s.now s.baro.frameTimes).length < s.baro.mogFrames &&
  (!emcy || (lastSecond s.now s.baro.emcyTimes).length < s.baro.mogEmcy)

/-- R463: a frame passes the output limits, or is dropped and counted. -/
def canFrame (s : State) (emcy : Bool) (e : Emit) : State :=
  let fs := lastSecond s.now s.baro.frameTimes
  let es := lastSecond s.now s.baro.emcyTimes
  if frameFits s emcy then
    emit { s with baro := { s.baro with
      frameTimes := s.now :: fs, emcyTimes := if emcy then s.now :: es else es } } e
  else bump s 0x4000 0x0C

/-- R522, R523: EMCY, heartbeat and boot-up frames are FD frames, by x2010:03 as it is in force. -/
def fdFrames (s : State) : Bool := s.mgmt.canUse.getD 2 0 ≠ 0

/-- The CAN FD port sends: it has a node-ID in use and is neither in bus-off nor silent. -/
def canUp (s : State) : Bool :=
  alive s && s.mgmt.nodeUse ≠ 0 && s.mgmt.bus < 2 && s.mgmt.nmt ≠ .initialising

/-- R527: an EMCY event with its CLASS and SOURCE; the error enters x1003 (R534) unless it is an error
reset. -/
def emcy (s : State) (err cls kind idx : Nat) : State :=
  let s :=
    if err = 0 then s
    else { s with mgmt := { s.mgmt with
      errs := (BitVec.ofNat 32 (cls * 65536 + err) :: s.mgmt.errs).take 8 } }
  if canUp s && (s.mgmt.nmt = .preOperational || s.mgmt.nmt = .operational) then
    canFrame s true (.emcy (fdFrames s) s.mgmt.nodeUse err (errReg s) cls kind idx)
  else s

/-- R527: a pair event, as EMCY and MNT. -/
def pairEvent (s : State) (k : Nat) : State := notice (emcy s (0xFE00 + k) 0 0 0) (0x40 + k)

/-- R444: the Barometer writes an entry; kind and index name the source. -/
def logFault (s : State) (code cls kind idx : Nat) (detail : Word) : State :=
  let b := s.baro
  let key := code * 65536 + kind * 256 + idx
  let n := min (tget 0 b.counts key + 1) (2 ^ 32 - 1)
  let e : LogEntry :=
    ⟨if s.time.running then ledgerNow s else crystalCount s, code, cls, kind, idx, n, detail, b.boots⟩
  { s with baro := { b with
      log := tset b.log b.logNext e
      logNext := (b.logNext + 1) % 2048
      logCnt := min (b.logCnt + 1) 0xFFFF
      last := code
      counts := tset b.counts key n } }

/-- R443: an alert of code n is latched; ALERT_N is low. -/
def latch (s : State) (code : Nat) : State :=
  let s' := { s with baro := { s.baro with src := s.baro.src ||| BitVec.ofNat 32 (2 ^ code) } }
  if s.baro.src = 0 then emit s' (.alert false) else s'

/-- R442: the alert of a class L or A event, with its EMCY and MNT (R445, R527). -/
def alert (s : State) (code cls kind idx : Nat) : State :=
  notice (emcy (latch s code) (0xFF00 + code) cls kind idx) (0x10 + code)

/-- R442: a class A event. -/
def alertFault (s : State) (code kind idx : Nat) (detail : Word) : State :=
  alert (logFault s code 4 kind idx detail) code 4 kind idx

/-- R453, R553: fail-silent. Every engine halts; SAFE_OUT_N is low; the heartbeats stop; DRAM refreshes itself. -/
def silence (s : State) : State :=
  if s.phase = .silent then s
  else
    let s := driveMem s true .selfRefresh
    emit (emit { s with phase := .silent, baro := { s.baro with safeOut := false } } (.safeOut false)) .silent

/-- R444, R453: a fault comes to the Barometer. While the device is silent its engines stand: the Barometer logs
the fault and latches its alert. In a power-on reset it does nothing. -/
def underGuard (s : State) (f : State → State) : State :=
  match s.phase with
  | .held => s
  | .silent =>
    let b := (f s).baro
    let s1 := { s with baro := b }
    if s.baro.src = 0 && b.src ≠ 0 then emit s1 (.alert false) else s1
  | _ => f s

/-- The raw transition times of an input (R456): 0 FORCE_SAFE_N, 1 PAIR_HB_IN, 2 SYSRST_N. -/
def rawTimes (b : Baro) (i : Nat) : List Nat := if i = 0 then b.raw0 else if i = 1 then b.raw1 else b.raw2

/-- R455: a level change of an input passes its filter when the raw input has held it for 10 µs; the level follows
(log entry 116). -/
def filtered (s : State) (i : Nat) : State :=
  let s1 := match rawTimes s.baro i with | t :: _ => passTo s (t + 10 * micro) | [] => s
  { s1 with baro := { s1.baro with
    filt := if i = 1 then s1.baro.filt ^^^ 2 else s1.baro.filt &&& ~~~ BitVec.ofNat 3 (2 ^ i) } }

/-- R442, R453: a class S fault is logged and the device becomes silent. -/
def silentFault (s : State) (code kind idx : Nat) (detail : Word) : State :=
  silence (logFault s code 5 kind idx detail)

end Sys2Proof.Machine
end

