-- ==== Sys2Proof/Machine/Path.lean ====
section
/-! DEFINITION. The commit path: mirror slots (R59), journal records and their chain (R74 to R77), fill
(R81 to R84), the ends of a transaction (R60, R68, R343, R449) and the duplicate index rows they close
(R41, R42). -/

namespace Sys2Proof.Machine

/-- The smallest key at or above `lo` that a table does not list. -/
def gap {α : Type} (lo : Nat) : Tbl α → Nat
  | [] => lo
  | (k, _) :: r => if k < lo then gap lo r else if k = lo then gap (lo + 1) r else lo

/-- R420, R419: the pair state; a device in service whose PAIRED is 0 is ALONE. -/
def pst (s : State) : PState :=
  if !bit s.pair.cfg 63 && decide (s.phase = .running) then .alone else s.pair.st

/-- R502: a partner is joined. -/
def joined (s : State) : Bool :=
  match pst s with
  | .joining | .paired | .resync => true
  | _ => false

/-- R418, R77: the pair side, which numbers the device's stream. -/
def ownStream (s : State) : Nat := fld s.pair.cfg 62 62

/-- R59: slot length S, 31 ns when M0 allows only T3. -/
def slotNs (s : State) : Nat := if fld (getPort s 8).pcfg 35 33 = 4 then 31 else 123

/-- Contexts in the ledger, with their numbers. -/
def ledger (s : State) : Tbl Ctx := s.ctxs.filter fun e => inLedger e.2

def ringSize (s : State) : Nat := (jsealRange s.prot.jseal).2

/-- R74, R81: bytes a record takes in the ring, its padding among them (log entry 102). -/
def recPad (n : Nat) : Nat := roundUp (128 + n) 64

/-- R85: the record has not been reclaimed. -/
def unreclaimed (s : State) (r : Rec) : Bool :=
  if r.stream = 0 then s.jrn.reclaimed0 < r.seq else s.jrn.reclaimed1 < r.seq

/-- Bytes of the unreclaimed records, and of system records on their way. -/
def ringUsed (s : State) : Nat :=
  ((s.jrn.ring.filter (unreclaimed s)).map fun r => recPad r.body.length).sum +
  ((s.jrn.path.filter fun r => r.tx.isNone).map fun r => recPad r.body.length).sum

/-- A request decided as accepted and not yet released. -/
def acceptHeld (r : Request) : Bool :=
  r.st = .decided && (match r.dec with | .accept _ => true | _ => false)

/-- R81: reservations of accepted transactions whose record is not yet written, those decided and held till
their release among them (log entry 103). -/
def reserved (s : State) : Nat :=
  1024 * ((ledger s).length + (s.jrn.path.filter fun r => r.tx.isSome).length + (s.adm.reqs.filter acceptHeld).length)

/-- R81: the fill level. -/
def fill (s : State) : Nat := ringUsed s + reserved s + 0x100000

/-- R84: the journal can take a system record with a body of `n` bytes. -/
def sysRoom (s : State) (n : Nat) : Bool := ringUsed s + reserved s + recPad n ≤ ringSize s

/-- R82: threshold of a class in percent. -/
def fillLimit (cls : Nat) : Nat := 96 - 2 * cls

/-- R533, R542: the fill gauge in 1/1,000 of the ring, for fill `f`, and its key. -/
def fillGauge (s : State) (f : Nat) : Nat := min 1000 (f * 1000 / max 1 (ringSize s))
def fillKey : Nat := 0x2500 * 256 + 4

/-- R82: the classes refused for fill, with the hysteresis of one percentage point. -/
def fillUpdate (s : State) : State :=
  let f := fill s * 100
  let z := ringSize s
  let b := (List.range 4).foldl (fun v c =>
    let on := if bit s.adm.fullCls c then (fillLimit c - 1) * z ≤ f else fillLimit c * z ≤ f
    v + (if on then 2 ^ c else 0)) 0
  let s := setCtr s fillKey (tget (fillGauge s 0x100000) s.mgmt.ctr fillKey) (fillGauge s (fill s))
  { s with adm := { s.adm with fullCls := BitVec.ofNat 4 b } }

/-- R59: the earliest free reserved slot that begins at least 100 ns from now. -/
def sysSlotFrom (claimed : List Nat) : Nat → Nat → Nat
  | k, 0 => k
  | k, n + 1 => if claimed.contains k then sysSlotFrom claimed (k + 64) n else k

def claimSlot (s : State) : Nat :=
  let k0 := cdiv (ledgerNow s + 100) (slotNs s)
  sysSlotFrom s.adm.sysSlots (k0 + (127 - k0 % 64) % 64) s.adm.sysSlots.length

/-- R49: W of a system record with slot k. -/
def slotW (s : State) (k : Nat) : Nat := k * slotNs s + 3000

/-- A record before its SEQ and chain values. -/
def Rec.blank (stream kind : Nat) (body : List Byte) : Rec where
  stream := stream
  seq := 0
  kind := kind
  status := 0
  reason := 0
  prog := 0
  stamp := 0
  done := 0
  orig := 0
  serial := 0
  pool := 0
  part := 0
  port := 0
  cycles := 0
  body := body
  tx := none
  floor := 0
  place := 0
  readyAt := 0
  ready := false
  slot := 0
  prev := []
  h := []
  ringAt := 0
  ringDone := false
  sentAt := 0
  sent := false
  acked := false
  ackAt := 0
  replied := false
  mirrored := false

/-- R72: an item, padded. -/
def mkItem (ty : Nat) (data : List Byte) : List Byte :=
  beBytes 2 ty ++ beBytes 2 data.length ++ zeros 4 ++ padTo 8 data

/-- A system record of a stream and kind, whatever room there is. By log entry 22 STAMP and DONE hold the ledger
time of its request. -/
def forceRecord (s : State) (stream kind : Nat) (f : Rec → Rec) (data : Nat → List Byte) : State × Nat :=
  let k := claimSlot s
  let w := slotW s k
  let r := f (Rec.blank stream kind (mkItem (0x8000 + kind) (data w)))
  let r := { r with slot := k, readyAt := atLedger s (k * slotNs s) + 510000, stamp := ledgerNow s, done := ledgerNow s }
  (fillUpdate { s with
    jrn := { s.jrn with path := s.jrn.path ++ [r] }
    adm := { s.adm with sysSlots := k :: (s.adm.sysSlots.filter fun j => ledgerNow s ≤ (j + 1) * slotNs s) } }, w)

/-- R75: a system record whose change description is `data` in one device item of type x8000 + KIND
(log entry 22); it claims its mirror slot. Answers W of R49, or none when the journal cannot take it. -/
def sysRecord (s : State) (kind : Nat) (f : Rec → Rec) (data : Nat → List Byte) : Option (State × Nat) :=
  if sysRoom s (mkItem (0x8000 + kind) (data (slotW s (claimSlot s)))).length then
    some (forceRecord s (ownStream s) kind f data)
  else none

/-- R40: ledger time runs, JSEAL has been written, and no ring move is in progress. -/
def deviceReady (s : State) : Bool := s.time.running && s.prot.jsealOn && s.prot.ringMove.isNone

/-- R75, R84: a lifecycle or debug record is written when the journal can take it; its item holds the event's code. -/
def debugRecord (s : State) (code : Nat) : State :=
  if sysRoom s 16 then
    (forceRecord { s with boot := { s.boot with debugRec := s.boot.debugRec.erase code } } (ownStream s) 0x15 id
      fun _ => beBytes 8 code).1
  else s

/-- R84, R491: the debug records that waited for the stream to open, or for room. -/
def owedRecord (s : State) : State := s.boot.debugRec.foldl debugRecord s

/-- R432, R439: a pair event record of a stream that carries OWNMAP `own` (log entry 22). -/
def pairRecord (s : State) (stream : Nat) (own : Word) : State :=
  (forceRecord s stream 0x14 id fun _ => wordBytes own).1

/-- R84, R432 steps 2 and 3: the takeover record in the partner's stream, then the pair event record in the own, once the
journal can take both. Of a partner whose stream it does not hold the takeover record is the first, SEQ 1 after H(0)
(log entry 100). -/
def soloRecords (s : State) : State :=
  if s.pair.soloOwed && ringUsed s + reserved s + 2 * recPad 16 ≤ ringSize s then
    let s := { s with pair := { s.pair with soloOwed := false } }
    pairRecord (pairRecord s (1 - ownStream s) s.pair.ownmap) (ownStream s) s.pair.ownmap
  else s

/-- R84, R438: the pair event record of a rejoin, once the journal can take it. -/
def rejoinRecord (s : State) : State :=
  if s.pair.rejoinOwed && sysRoom s 16 then
    pairRecord { s with pair := { s.pair with rejoinOwed := false } } (ownStream s) s.pair.ownmap
  else s

/-- The records that waited for the stream to open, or for room. -/
def owedRecords (s : State) : State := if s.jrn.opened then rejoinRecord (soloRecords (owedRecord s)) else s

/-- R432: steps 1 to 3 are done, so that step 4 may begin. -/
def soloDone (s : State) : Bool :=
  !s.pair.soloOwed && !((s.jrn.path ++ s.jrn.ring).any fun r => r.kind = 0x14 && !r.ringDone)

/-- R77: the stream-open record, written once the journal can serve (log entry 23); the records that waited for it
follow (log entry 100). -/
def openStream (s : State) : State :=
  if s.jrn.opened || !alive s || !deviceReady s then s
  else
    match pst s with
    | .alone | .paired | .solo =>
      (match sysRecord s 0x10 id (fun _ => []) with
       | some (s', _) => owedRecords { s' with jrn := { s'.jrn with opened := true } }
       | none => s)
    | _ => s

/-- R74: the header of a record. -/
def recHeader (r : Rec) : List Byte :=
  beBytes 2 1 ++ beBytes 1 r.kind ++ beBytes 1 r.status ++ beBytes 2 (128 + r.body.length) ++
  beBytes 2 r.prog ++ beBytes 8 r.seq ++ beBytes 8 r.stamp ++ beBytes 8 r.done ++ wordBytes r.orig ++
  beBytes 4 r.serial ++ beBytes 2 r.pool ++ beBytes 1 r.part ++ beBytes 1 (r.stream * 128 + r.port) ++
  beBytes 2 r.reason ++ zeros 2 ++ beBytes 4 r.cycles ++ zeros 8

/-- R74: a whole record with its padding. -/
def recBytes (r : Rec) : List Byte := padTo 64 (recHeader r ++ r.body ++ r.prev ++ r.h)

/-- R76: the chain value of a record after `prev`. -/
def chainOf (prev : List Byte) (r : Rec) : List Byte := sha3 (prev ++ recHeader r ++ r.body)

/-- R76: the hash excerpt. -/
def excerptOf (r : Rec) : Nat := field r.h 0 8

-- the duplicate index (R41 to R44, R423)

/-- R423: the rows of a stream's half. -/
def halfBase (stream : Nat) : Nat := stream * 32768

def inHalf (stream i : Nat) : Bool := halfBase stream ≤ i && i < halfBase stream + 32768

/-- The row of ORIG in a half. -/
def rowOf (s : State) (stream : Nat) (orig : Word) : Option (Nat × DupRow) :=
  s.adm.rows.find? fun e => inHalf stream e.1 && e.2.used && e.2.orig = orig

/-- R44: N at the resolution of LASTSEC. -/
def secNow (s : State) : Nat := ledgerNow s / 2 ^ 30 % 2 ^ 31

/-- R44: a used row is free again. -/
def rowFree (s : State) (r : DupRow) : Bool :=
  !r.used || (r.slots.all (·.done) &&
    cdiv (s.adm.retention * 1000000000) (2 ^ 30) + 1 ≤ (secNow s + 2 ^ 31 - r.lastSec) % 2 ^ 31)

/-- R44: duplicate index rows in use; R533: at the latest refresh, and the gauge's key. -/
def rowsUsed (s : State) : Nat := (s.adm.rows.filter fun e => !rowFree s e.2).length
def rowsThen (s : State) : Nat := rowsUsed { s with now := s.now / 1000000000000 * 1000000000000 }
def rowsKey : Nat := 0x4000 * 256 + 0x11

/-- R44: a row to claim in a half: an unused one, else the lowest-numbered free one (log entry 24). -/
def freeRow (s : State) (stream : Nat) : Option Nat :=
  let rs := s.adm.rows.filter fun e => inHalf stream e.1 && e.2.used
  let k := gap (halfBase stream) rs
  if inHalf stream k then some k else (rs.find? fun e => rowFree s e.2).map (·.1)

/-- R43: with 16 slots taken, the done slot of the lowest serial is retired. -/
def retireSlot (r : DupRow) : DupRow :=
  if r.slots.length < 16 then r
  else
    let ds := r.slots.filter (·.done)
    let m := ds.foldl (fun m d => min m d.serial) (2 ^ 32)
    { r with slots := r.slots.filter (fun d => !(d.done && d.serial = m)), floor := max r.floor m }

/-- A slot of a row is written. -/
def putSlot (r : DupRow) (d : DupSlot) : DupRow :=
  { r with slots := d :: r.slots.filter fun e => e.serial ≠ d.serial }

def setRow (s : State) (i : Nat) (r : DupRow) : State :=
  let s := markCtr s rowsKey (rowsThen s)
  { s with adm := { s.adm with rows := tset s.adm.rows i r } }

/-- R42: the transaction's slot is done; duplicates linked to it are due now. -/
def closeSlot (s : State) (stream : Nat) (orig : Word) (serial status seq excerpt : Nat) : State :=
  match rowOf s stream orig with
  | none => s
  | some (i, r) => setRow s i (putSlot r ⟨serial, true, status, seq, excerpt⟩)

-- ends of a transaction

/-- R67, R74: budget cycles consumed, with those of the abort window. -/
def cyclesUsed (x : Ctx) : Nat :=
  if x.started then (x.sel.wcet - x.bcnt) + (if x.base.ovr then 7600 - x.win else 0) else 0

/-- R52, R74: the PROG field. -/
def progField (x : Ctx) : Nat := x.sel.cls * 16384 + x.prog

/-- The record of a transaction that ends now; ready at M0 1,020 cycles later (R78). -/
def txRec (s : State) (n : Nat) (x : Ctx) (status reason : Nat) (body : List Byte) : Rec :=
  { Rec.blank (ownStream s) 1 body with
    status := status
    reason := reason
    prog := progField x
    stamp := x.stamp
    done := ledgerNow s
    orig := x.orig
    serial := x.serial
    pool := x.pool
    part := x.part
    port := x.port
    cycles := cyclesUsed x
    floor := x.floor
    tx := some ⟨x.orig, x.serial, x.port, x.session, x.stamp, n⟩
    readyAt := s.now + 1020 * cyc
    slot := x.mslot }

/-- Far loads of a context that ended deliver nowhere (R332). -/
def forgetFar (q : List FarAcc) (n : Nat) : List FarAcc :=
  q.map fun f =>
    match f.kind with
    | .loadG m l k a sz w => { f with kind := .loadG m l (if m = n then none else k) a sz w }
    | .loadF m l k a v => { f with kind := .loadF m l (if m = n then none else k) a v }
    | .pre m ws => { f with kind := .pre m (if m = n then [] else ws) }
    | .store _ | .heal .. => f

/-- A context leaves the banks of its core (R323, R326); a FROZEN one still takes its far data (R327). -/
def leaveBanks (s : State) (c n : Nat) (frozen : Bool) : State :=
  let k := getCore s c
  setCore s c { k with
    banks := k.banks.erase n
    fpBanks := k.fpBanks.erase n
    far := if frozen then k.far else forgetFar k.far n }

/-- The transaction of context `n` leaves the ledger (R60) in state `st`, and its record goes to the
commit path over the mesh (R20, R78). Its cell is idle from now on if it holds no other work (R496). -/
def endTx (s : State) (n : Nat) (st : CState) (status reason : Nat) (body : List Byte) : State :=
  let x := getCtx s n
  let s := setCell s (x.lane / 4) { getCell s (x.lane / 4) with idleAt := s.now }
  let s := leaveBanks s x.lane n (st = .frozen)
  setCtx { s with
      jrn := { s.jrn with path := s.jrn.path ++ [txRec s n x status reason body] }
      mesh := s.mesh ++ [⟨x.lane / 4, 73, s.now + 576 * cyc⟩] } n
    { x with st := st }

/-- A record returns to the pool (R328). -/
def freeCtx (s : State) (n : Nat) : State :=
  let s := leaveBanks s (getCtx s n).lane n false
  setCtx s n Ctx.free

/-- The FROZEN record that froze first (R344). -/
def oldestFrozen (s : State) : Option Nat :=
  let fz := s.ctxs.filter fun e => e.2.st = .frozen
  (fz.foldl (fun (m : Option (Nat × Nat)) e =>
    match m with
    | some (_, a) => if e.2.relAt < a then some (e.1, e.2.relAt) else m
    | none => some (e.1, e.2.relAt)) none).map (·.1)

def frozenCount (s : State) : Nat := (s.ctxs.filter fun e => e.2.st = .frozen).length

/-- R344: with 64 FROZEN records held, a further freeze reclaims the oldest. -/
def reclaimFrozen (s : State) : State :=
  if frozenCount s < 64 then s
  else match oldestFrozen s with
    | some n => bump (freeCtx s n) 0x4000 0x0B
    | none => s

/-- A core lets go of the context it runs: what belongs to that context alone is dropped. -/
def dropRunning (s : State) (c : Nat) : State :=
  let k := getCore s c
  match k.running with
  | none => s
  | some _ =>
    setCore s c { k with
      running := none
      exc := none
      preempt := false
      verdict := none
      lines := []
      fetchWait := []
      preWait := []
      unit := none
      cut := none }

/-- R343, R344: context `n` freezes with the code; XA and XC go to its base record. Its ABORTED_FAULT
record carries the code as REASON. -/
def freezeCtx (s : State) (n : Nat) (e : Pend) : State :=
  let x := getCtx s n
  let s := reclaimFrozen s
  let xc := e.detail * 65536 + e.info * 256 + e.code
  let s := setCtx s n { x with
    freason := e.code
    relAt := s.now
    base := { x.base with xa := BitVec.ofNat 64 e.xa.toNat, xc := BitVec.ofNat 64 xc } }
  endTx s n .frozen 2 e.code []

/-- R343: the context that runs on core `c` freezes. -/
def freeze (s : State) (c : Nat) (e : Pend) : State :=
  match (getCore s c).running with
  | none => s
  | some n => dropRunning (freezeCtx s n e) c

/-- R60, R328: transactions accepted and not yet answered, as (lane partition, pool). -/
def openTx (s : State) : List (Nat × Nat) :=
  ((ledger s).map fun e => (e.2.part, e.2.pool)) ++
  ((s.jrn.path ++ s.jrn.ring).filterMap fun r =>
    if r.tx.isSome && !r.replied then some (r.part, r.pool) else none)

end Sys2Proof.Machine
end

