-- ==== Sys2Proof/Machine/Sched.lean ====
section
/-! DEFINITION. The cell scheduler and the banks of a core: dispatch and switching (R61, R66, R323 to
R330), exception entry and the frame (R342 to R348), DRAM errors met by reads (R91). -/

namespace Sys2Proof.Machine

-- dispatch

/-- R61: one context goes before another: earlier run deadline, then acceptance order. -/
def before (a b : Ctx) : Bool := a.dl < b.dl || (a.dl = b.dl && a.acc < b.acc)

/-- The first, in the order of R61, of the READY contexts on a lane other than `skip`. -/
def nextReady (s : State) (lane : Nat) (skip : Option Nat) : Option Nat :=
  ((s.ctxs.filter fun e => e.2.st = .ready && e.2.lane = lane && skip ≠ some e.1).foldl
    (fun (m : Option (Nat × Ctx)) e =>
      match m with
      | some b => if before e.2 b.2 then some e else m
      | none => some e) none).map (·.1)

/-- R494: a cell runs instructions only in Gale with no exit in progress. -/
def cellAwake (s : State) (c : Nat) : Bool :=
  (getCell s (c / 4)).cur = 0 && (getCell s (c / 4)).exitAt.isNone

/-- R334: size of a Supervisor stack slot, and the own-cell address of slot `i`. -/
def slotSize (x : Cell) : Nat := 512 * 2 ^ fld x.ccfg1 55 54
def slotAddr (x : Cell) (i : Nat) : Nat := 0xFE00000000 + fld x.ccfg1 18 0 + i * slotSize x

/-- R113, R65: the own-cell address of a staging block. -/
def blkAddr (b : Nat) : Nat := 0xFE00040000 + 256 * b

/-- R66, R102, R335: the context as its first dispatch sets it. -/
def firstCtx (s : State) (x : Ctx) : Ctx :=
  let cell := getCell s (x.lane / 4)
  let g : Vector TWord 32 := Vector.replicate 32 nil
  let g := g.set 1 (match x.payBlks with | b :: _ => ptr 5 true (blkAddr b) | [] => nil)
  let g := g.set 2 (ptr 6 true (blkAddr x.vecBlk))
  let g := g.set 3 (fixN x.stamp)
  let g := g.set 4 (fixN x.dc)
  let g := g.set 5 (fixN x.pool)
  let g := g.set 6 (ptr 10 true 0xFE00000F20)
  let ps := x.sel.akey * 2 ^ 20 + x.sel.priv * 2 ^ 18 + b2n x.sel.smode * 2 ^ 17
  { x with
    started := true
    firstRun := true
    bcnt := x.sel.wcet
    base := { Bank.fresh with
      g := g
      ps := BitVec.ofNat 64 ps
      xb := BitVec.ofNat 24 (x.sel.entry.toNat / 65536)
      ia := x.sel.entry }
    ssp := ptr 5 false (slotAddr cell (x.slot + 1))
    slim := BitVec.ofNat 40 (slotAddr cell x.slot) }

/-- R324: with six resident contexts and none of them the incoming, the one with the latest run
deadline, the latest accepted among equals, is evicted. -/
def evict (s : State) (banks : List Nat) (n : Nat) : List Nat :=
  if banks.contains n then banks
  else if banks.length < 6 then n :: banks
  else
    let last := banks.foldl (fun (m : Option Nat) b =>
      match m with
      | some w => if before (getCtx s w) (getCtx s b) then some b else m
      | none => some b) none
    match last with
    | some w => n :: banks.erase w
    | none => n :: banks

/-- R325: cycles of the switch to context `n`; `held` when the outgoing one holds bank 6 or 7. -/
def switchCost (s : State) (c n : Nat) (held : Bool) : Nat :=
  if (getCore s c).banks.contains n && (getCtx s n).outAt0 && !held then 12 else 180

/-- The switch-in of a READY context. -/
def switchIn (s : State) (c n : Nat) (held : Bool) : State :=
  let k := getCore s c
  let x := getCtx s n
  let t := max (boundary k) x.relAt + switchCost s c n held * cyc
  let x' := if x.started then { x with firstRun := false } else firstCtx s x
  let s := setCore s c { k with
    running := some n
    banks := evict s k.banks n
    exc := x'.xpend
    preempt := false
    lines := []
    freeAt := t
    sched := Sched.fresh (t / cyc) }
  passTo (setCtx s n { x' with
    st := .running, xpend := none, fpd := false, held := x'.held + switchCost s c n held }) t

/-- A context holds bank 6 or bank 7; the emulation routine is a gate level (R265). -/
def holdsBanks (x : Ctx) : Bool := x.gates ≠ [] || x.exc.isSome || x.emu ≠ []

/-- R279: a pre-read of the core has started before time `t`. -/
def preStarted (k : Core) (t : Nat) : Bool := k.preWait ≠ [] && decide (k.waitAt < t)

/-- R279: a sampling point taken at time `t` is over: a pre-read that has started waits for its verdict. -/
def sampledAt (k : Core) (t : Nat) : Nat := if preStarted k t then max t (k.waitAt + 64 * cyc) else t

/-- R276, R279: at a sampling point taken at time `t`, a pre-read that has started goes on, and its data arrives when it
would have; one that has not is withdrawn. -/
def leavePre (s : State) (c t : Nat) : State :=
  let k := getCore s c
  let s := if preStarted k t then pushFar s c ⟨.pre (ctxLevel s c).1 k.preWait, k.waitAt, k.preWait.length⟩ else s
  setCore s c { getCore s c with preWait := [] }

/-- R324, R328: at a sampling point at time `at'` the running context becomes READY; the rest of its state stays as it is.
It has held the core until then, waits included (R60, R67). -/
def switchOut (s : State) (c at' : Nat) : State :=
  match (getCore s c).running with
  | none => s
  | some n =>
    let k0 := getCore s c
    let t := sampledAt k0 at'
    let s := holdCore (leavePre s c at') c ((t - k0.freeAt) / cyc) 0
    let k := getCore s c
    let x := getCtx s n
    let s := setCtx s n { x with
      st := .ready, relAt := t, firstRun := false, xpend := k.exc, outAt0 := !holdsBanks x }
    setCore s c { k with
      running := none, exc := none, preempt := false, lines := [], fetchWait := [], unit := none
      freeAt := t, sched := Sched.fresh (t / cyc) }

/-- R329: a context is released; one with an earlier run deadline than the running one's asks for
preemption. -/
def release (s : State) (n t : Nat) : State :=
  let x := getCtx s n
  let s := setCtx s n { x with st := .ready, relAt := t }
  let k := getCore s x.lane
  match k.running with
  | some r => if x.dl < (getCtx s r).dl then setCore s x.lane { k with preempt := true, preAt := t } else s
  | none => s

-- exceptions

/-- R345: the exception stack pointer of a level. -/
def stackPtr (x : Ctx) (b : Bank) : TWord := if b.priv = 1 then b.g[30] else x.ssp

def xcWord (e : Pend) : Word := BitVec.ofNat 64 (e.detail % 2 ^ 32 * 65536 + e.info * 256 + e.code)

/-- R346: the 48 words of the frame. -/
def frameWords (s : State) (c : Nat) (x : Ctx) (b : Bank) (e : Pend) : List TWord :=
  [fixN e.xa.toNat, fix (xcWord e),
   fixN (x.depth * 4 + 2 * b2n e.pair + b2n e.half), fix b.ps,
   ptr 10 true e.xa.toNat, fix b.ct, fix (b.xb.setWidth 64), fix b.fl, fix (teRead s c)] ++
  List.replicate 7 (fix 0) ++ b.g.toList

/-- Words written upward from `a`. -/
def writeWords (s : State) (a : Nat) : List TWord → State
  | [] => s
  | w :: r => writeWords (applyWrite s ⟨a, wordBytes w.pay, w.tag, false⟩) (a + 8) r

/-- R346: the exception level as entered. -/
def excBank (s : State) (c : Nat) (x : Ctx) (frame : Nat) (e : Pend) : Bank :=
  let cell := getCell s (c / 4)
  let xent := fld cell.ccfg0 39 0
  let skey := fld cell.ccfg1 51 48
  let g : Vector TWord 32 := Vector.replicate 32 nil
  { Bank.fresh with
    g := (g.set 1 (ptr 5 false frame)).set 30 (ptr 5 false frame)
    xb := BitVec.ofNat 24 (xent / 65536)
    xa := BitVec.ofNat 64 e.xa.toNat
    xc := xcWord e
    ps := BitVec.ofNat 64 (skey * 2 ^ 20 + 2 ^ 18 + b2n x.base.ovr * 2 ^ 16)
    ia := BitVec.ofNat 40 xent }

/-- R342 to R348: the pending exception is delivered at time `t` or at the boundary, or the context freezes (R343). -/
def enterExc (s : State) (c t : Nat) (e : Pend) : State :=
  match (getCore s c).running with
  | none => s
  | some n =>
    let x := getCtx s n
    let b := x.bankOf x.level
    let p := stackPtr x b
    if x.exc.isSome || e.code = 0x1E || e.code = 0x1A || !stackOk s c x p then freeze (spendTo s c t 0) c e
    else
      let s := drainAll s c
      let frame := p.pay.toNat - 384
      let s1 := writeWords s (physOf (some (c / 4)) frame) (frameWords s c x b e)
      let x1 := { getCtx s1 n with
        exc := some ⟨excBank s c x frame e, BitVec.ofNat 40 frame, x.gates.length⟩, frb := [], frbAt := 0, frbBy := [] }
      let s1 := setCtx s1 n x1
      let k := getCore s1 c
      spendTo (setCore s1 c { k with exc := none, unit := none, far := dropPre k.far n }) c t 36

/-- R279: a core without a context leaves its steward code at a boundary: what waits is withdrawn. -/
def leaveOwn (s : State) (c : Nat) : State :=
  let k := getCore s c
  let s := spendTo (leavePre s c (boundary k)) c (sampledAt k (boundary k)) 0
  setCore s c { getCore s c with fetchWait := [], unit := none }

/-- R68, R350: a pending BUDGET_OVERRUN at the boundary, with WIN in DETAIL. -/
def overrunPend (s : State) (c n : Nat) : Pend :=
  ⟨(curBank s c).ia, 0x17, 0, (getCtx s n).win, false, false⟩

-- DRAM errors

/-- R91, R445: a DRAM read met an error; the Barometer's entry and count. -/
def dramReport (s : State) (err : DramErr) (a : Nat) : State :=
  match err with
  | .clean => s
  | .single => bump (logFault s 6 1 4 (Config.blockIndex 6 (BitVec.ofNat 64 a) % 256) (BitVec.ofNat 64 a)) 0x4000 0x10
  | .double => logFault s 7 2 4 (Config.blockIndex 7 (BitVec.ofNat 64 a) % 256) (BitVec.ofNat 64 a)

end Sys2Proof.Machine
end

