-- ==== Sys2Proof/Machine/Select.lean ====
section
/-! DEFINITION. The checks of admission: duplicate lookup (R42, R43, R423), program selector and keys (R52,
R53), close guard (R48), pair state (R419), resources (R65, R319, R335), mirror calendar (R59) and the EDF
test (R56 to R58, R60, R62). -/

namespace Sys2Proof.Machine

/-- R24: class bounds in nanoseconds. -/
def classBound (cls : Nat) : Nat := ([50000, 250000, 2000000, 20000000] : List Nat).getD cls 0

-- program selector

/-- Word `i` of a selector entry. -/
def selWord (ws : List Word) (i : Nat) : Word := ws.getD i 0

/-- R52: an entry at its reset values: PRIV b10, every other field 0 (log entry 104). -/
def selReset : List Word := 0x0800000000000000 :: List.replicate 15 0

/-- R52: the words of entry `n`. -/
def selEntry (s : State) (n : Nat) : List Word := tget selReset s.adm.sels n

/-- R52: VALID and NSTG. -/
def selValid (ws : List Word) : Bool := bit (selWord ws 0) 63
def selNstg (ws : List Word) : Nat := fld (selWord ws 0) 55 52

/-- R66: the copy kept at acceptance. -/
def selCopy (ws : List Word) : Sel where
  cls := fld (selWord ws 0) 62 61
  smode := bit (selWord ws 0) 60
  priv := fld (selWord ws 0) 59 58
  akey := fld (selWord ws 0) 51 48
  entry := BitVec.ofNat 40 (fld (selWord ws 0) 39 0)
  wcet := fld (selWord ws 1) 63 32
  nstg := selNstg ws
  emu := bit (selWord ws 0) 56
  descs := (List.range (selNstg ws)).map fun i => selWord ws (2 + i)

/-- R53: fields of a staging descriptor. -/
def sdBase (d : Word) : Nat := fld d 63 24
def sdKoff (d : Word) : Nat := fld d 23 16
def sdKbits (d : Word) : Nat := fld d 15 11
def sdLen (d : Word) : Nat := 64 * (fld d 10 9 + 1)

/-- R53: the key of a descriptor, in range and inside the payload. -/
def stageKey (payload : List Byte) (d : Word) : Option Nat :=
  if payload.length < 4 * sdKoff d + 4 then none
  else
    let k := field payload (4 * sdKoff d) 4
    if k < 2 ^ sdKbits d then some k else none

/-- R53: the address of a staged record. -/
def stageAddr (payload : List Byte) (d : Word) : Nat := sdBase d + field payload (4 * sdKoff d) 4 * 256

-- pool gate

/-- R47: fields of a pool gate entry. -/
def pgState (e : BitVec 256) : Nat := fld e 255 254
def pgPart (e : BitVec 256) : Nat := fld e 253 248
def pgOpen (e : BitVec 256) : Nat := fld e 191 128
def pgClose (e : BitVec 256) : Nat := fld e 127 64

def poolOf (s : State) (pool : Nat) : BitVec 256 := tget 0 s.adm.pools pool

/-- R48: the close guard; the detail of the refusal. -/
def closeGuard (e : BitVec 256) (stamp : Nat) : Option Nat :=
  if pgState e ≠ 1 then some 3
  else if stamp < pgOpen e then some 2
  else if pgClose e ≤ stamp then some 1
  else none

-- pair state

/-- R419, R420: the pair state admits work. -/
def pairAdmits (s : State) : Bool :=
  match pst s with
  | .alone | .paired | .solo => true
  | _ => false

/-- R432: MAPPLY has reached the SEQ before the takeover record. -/
def takenOver (s : State) : Bool :=
  match s.pair.takeSeq with
  | some q => q ≤ s.pair.mapply + 1
  | none => false

/-- R439: the partitions being moved. -/
def movingParts (s : State) : Word := s.pair.moves.foldl (fun w m => w ||| m.mask) 0

/-- R419: check 5; in SOLO from step 4 of R432 on. -/
def ownsPart (s : State) (part : Nat) : Bool :=
  match pst s with
  | .alone => true
  | .paired => (b2n (bit s.pair.ownmap part) = ownStream s) && !bit (movingParts s) part
  | .solo => soloDone s && ((b2n (bit s.pair.homemap part) = ownStream s) || takenOver s)
  | _ => false

-- duplicate index

/-- R42: the outcomes of a lookup. -/
inductive Lookup where
  | go
  | done (status seq excerpt : Nat)
  | flying
  | stale
  | busy (detail : Nat)
  deriving DecidableEq, Repr

/-- The slot of an identifier in either half. -/
def slotOf (s : State) (orig : Word) (serial : Nat) : Option DupSlot :=
  let f := fun st => (rowOf s st orig).bind fun e => e.2.slots.find? fun d => d.serial = serial
  (f 0).or (f 1)

/-- R42, R423. -/
def lookup (s : State) (orig : Word) (serial : Nat) : Lookup :=
  match slotOf s orig serial with
  | some d => if d.done then .done d.status d.seq d.excerpt else .flying
  | none =>
    let below := fun st => match rowOf s st orig with | some e => decide (serial ≤ e.2.floor) | none => false
    if below 0 || below 1 then .stale
    else match rowOf s (ownStream s) orig with
      | some e => if e.2.slots.length < 16 || e.2.slots.any (·.done) then .go else .busy 6
      | none => if (freeRow s (ownStream s)).isSome then .go else .busy 5

/-- R43: an accepted request claims its row and slot. -/
def claimIndex (s : State) (orig : Word) (serial : Nat) : State :=
  let new := fun (r : DupRow) => putSlot { retireSlot r with lastSec := secNow s } ⟨serial, false, 0, 0, 0⟩
  match rowOf s (ownStream s) orig with
  | some e => setRow s e.1 (new e.2)
  | none =>
    match freeRow s (ownStream s) with
    | some i => setRow s i (new { DupRow.free with orig := orig, used := true })
    | none => s

-- cells, lanes and their resources

/-- R494: exit time of a rung, ps. -/
def exitPs (rung : Nat) : Nat := ([0, 100000, 1000000, 10000000, 100000000] : List Nat).getD rung 0

/-- R497: the rung a cell is in; an entry takes effect at its start (log entry 37). -/
def rungOf (x : Cell) : Nat := x.cur

/-- R62, R449, R451, R498: lanes of the cell are eligible for a class. -/
def cellEligible (s : State) (cls n : Nat) : Bool :=
  let x := getCell s n
  n < ratedCells s.part.variant && x.svc = .ok && x.rdy && !x.off &&
  (rungOf x ≤ 2 || (rungOf x = 3 && cls ≠ 0))

/-- Contexts of a cell that hold their record. -/
def cellCtxs (s : State) (n : Nat) : List Ctx :=
  (s.ctxs.filter fun e => e.2.st ≠ .free && e.2.lane / 4 = n).map (·.2)

/-- The least number from `k` that is not in a list. -/
def lowest (used : List Nat) : Nat → Nat → Nat
  | 0, k => k
  | n + 1, k => if used.contains k then lowest used n (k + 1) else k

/-- The `n` least numbers not in a list. -/
def lowestN (used : List Nat) : Nat → List Nat
  | 0 => []
  | n + 1 =>
    let k := lowest used (used.length + 1) 0
    k :: lowestN (k :: used) n

/-- R335: stack slots in use in a cell, and the free one taken next. -/
def slotsUsed (s : State) (n : Nat) : List Nat := (cellCtxs s n).map (·.slot)
def freeSlot (s : State) (n : Nat) : Option Nat :=
  let u := slotsUsed s n
  let k := lowest u (u.length + 1) 0
  if k ≤ fld (getCell s n).ccfg1 63 56 then some k else none

/-- R65: staging blocks in use in a cell. -/
def blksUsed (s : State) (n : Nat) : List Nat :=
  ((cellCtxs s n).filter inLedger).flatMap fun x => x.vecBlk :: (x.payBlks ++ x.recBlks)

/-- R65: the first run of `np` adjacent free blocks. -/
def freeRun (used : List Nat) (np : Nat) : Nat → Nat → Option Nat
  | 0, _ => none
  | f + 1, k =>
    if 1024 < k + np then none
    else if (List.range np).any fun i => used.contains (k + i) then freeRun used np f (k + 1)
    else some k

/-- R65: blocks of a transaction: those of the payload, then the vector block, then the records. -/
def takeBlks (s : State) (n plen nstg : Nat) : Option (List Nat) :=
  let u := blksUsed s n
  let np := cdiv plen 256
  if 1024 < u.length + np + 1 + nstg then none
  else (freeRun u np 1025 0).map fun k =>
    let pay := (List.range np).map (· + k)
    pay ++ lowestN (pay ++ u) (1 + nstg)

/-- R319, R344: the level records of a context: its reservation while it is in the ledger, those its levels stand in
once it is FROZEN. -/
def levelsHeld (x : Ctx) : List Nat :=
  match x.st with
  | .free | .ending => []
  | .frozen => x.levels.take x.depth ++ (if x.exc.isSome then x.levels.drop (x.levels.length - 1) else [])
  | _ => x.levels

/-- R318, R319: context records in use. -/
def recordsUsed (s : State) : List Nat :=
  s.ctxs.flatMap fun e => if e.2.st = .free then [] else e.1 :: levelsHeld e.2

/-- Ledger time at a time of the clock. -/
def ledgerAt (s : State) (t : Nat) : Nat := s.time.base + slewed s.time t / 1000000000

/-- R60: remaining demand of a context, in half nanoseconds. -/
def remDem (s : State) (n : Nat) (x : Ctx) : Nat :=
  let k := getCore s x.lane
  let live := if k.running = some n then (s.now - k.freeAt) / cyc else 0
  x.dem - (cyclesUsed x + x.held + live)

/-- R57: a job in the ledger of a lane: dl (ns), rel (half ns), remaining demand (half ns). -/
structure Job where
  dl : Nat
  rel : Nat
  dem : Nat
  deriving DecidableEq, Repr

/-- The jobs of a lane. -/
def laneJobs (s : State) (lane : Nat) : List Job :=
  ((ledger s).filter fun e => e.2.lane = lane).map fun e => ⟨e.2.dl, 2 * ledgerAt s e.2.relAt, remDem s e.1 e.2⟩

/-- Jobs in order of release. -/
def byRel (js : List Job) : List Job :=
  js.foldl (fun l j => l.takeWhile (fun i => i.rel ≤ j.rel) ++ j :: l.dropWhile (fun i => i.rel ≤ j.rel)) []

/-- R57: the EDF test of job `x` on a lane, with `now` in half nanoseconds. -/
def edfTest (now : Nat) (js : List Job) (x : Job) : Bool :=
  js.length < 64 &&
  (let all := byRel (js ++ [x])
   all.all fun k =>
     if k.dl < x.dl then true
     else
       let t := (all.filter fun j => j.dl ≤ k.dl).foldl (fun t j => max t j.rel + j.dem) now
       decide (t ≤ 2 * k.dl))

/-- R59: the mirror slots that hold a run deadline. -/
def slotsHeld (s : State) : List Nat := (ledger s).map fun e => e.2.mslot

/-- R59: the latest free slot among the `n` before slot `k`. -/
def slotBefore (held : List Nat) : Nat → Nat → Option Nat
  | 0, _ => none
  | n + 1, k =>
    if k = 0 then none
    else if (k - 1) % 64 = 63 || held.contains (k - 1) then slotBefore held n (k - 1)
    else some (k - 1)

/-- R59: run deadline and mirror slot for a commit deadline. -/
def runDeadline (s : State) (dc : Nat) : Option (Nat × Nat) :=
  let t := dc - 3000
  let k := t / slotNs s
  if k % 64 ≠ 63 && !(slotsHeld s).contains k then some (t, k)
  else (slotBefore (slotsHeld s) 64 k).map fun j => ((j + 1) * slotNs s - 1, j)

/-- R56: demand in half nanoseconds: (WCET + 9,024) cycles, rounded up to whole ns. -/
def demandOf (wcet : Nat) : Nat := 2 * cdiv (wcet + 9024) 2

/-- R56: staging start and release of a request on a lane, ps. -/
def stagingOf (s : State) (r : Request) (nstg lane : Nat) : Nat × Nat :=
  let st := r.at' + 1600000 + exitPs (rungOf (getCell s (lane / 4)))
  let k := getCore s lane
  (st, max st k.stgFree + nstg * 320000)

/-- R57, R58: the lanes of the candidate cells on which the request passes, with the sum of remaining
demand. By log entry 105 `now` is the time of the decision command. -/
def passingLanes (s : State) (r : Request) (sel : Sel) (dl : Nat) (cells : List Nat) : List (Nat × Nat) :=
  (cells.flatMap fun c => (List.range 4).map fun i => 4 * c + i).filterMap fun lane =>
    let js := laneJobs s lane
    let x : Job := ⟨dl, 2 * ledgerAt s (stagingOf s r sel.nstg lane).2, demandOf sel.wcet⟩
    if !(getCore s lane).dead && edfTest (2 * ledgerNow s) js x then some (lane, (js.map Job.dem).sum) else none

/-- R58: the smallest sum, then the lowest lane. -/
def bestLane (ls : List (Nat × Nat)) : Option Nat :=
  (ls.foldl (fun (m : Option (Nat × Nat)) l =>
    match m with
    | some b => if l.2 < b.2 then some l else m
    | none => some l) none).map (·.1)

/-- The context that an accepted request is to have (R56, R65, R66, R319, R335). DESIGN CHOICE (log entry 137): R66 copies
the selector at acceptance, which may be the decision or its release; the model copies it at the decision. -/
def planCtx (s : State) (r : Request) (sel : Sel) (lane dl mslot dc : Nat) (blks : List Nat) : Ctx :=
  let np := cdiv r.f.plen 256
  let tm := stagingOf s r sel.nstg lane
  let recs := lowestN (recordsUsed s) (s.adm.gdepth + 2)
  { Ctx.free with
    st := .staging
    lane := lane
    slot := (freeSlot s (lane / 4)).getD 0
    prog := r.f.prog.toNat
    sel := sel
    orig := r.f.orig
    serial := r.f.serial.toNat
    pool := r.f.pool.toNat
    part := pgPart (poolOf s r.f.pool.toNat)
    port := r.port
    session := r.session
    payload := r.f.payload
    payBlks := blks.take np
    vecBlk := (blks.drop np).headD 0
    recBlks := blks.drop (np + 1)
    levels := recs.drop 1
    dl := dl
    dc := dc
    stamp := r.stamp
    stgAt := tm.1
    relAt := tm.2
    dem := demandOf sel.wcet
    mslot := mslot }

/-- R38 checks 6 to 8, for a request whose program and pool have passed. DEDUCED (log entry 136): when no cell is
eligible and no mirror slot is free either, check 8 names both x09 and x01; the model refuses with x09. -/
def checkLanes (s : State) (r : Request) (sel : Sel) : Decision × Option Ctx :=
  let refuse := fun (reason detail : Nat) => ((.refuse reason detail, none) : Decision × Option Ctx)
  if bit s.adm.fullCls sel.cls then refuse 3 0
  else if 16384 < (recordsUsed s).length + s.adm.gdepth + 2 then refuse 1 3
  else
    let el := (List.range (ratedCells s.part.variant)).filter (cellEligible s sel.cls)
    let sl := el.filter fun n => (freeSlot s n).isSome
    let cand := sl.filter fun n => (takeBlks s n r.f.plen sel.nstg).isSome
    if el ≠ [] ∧ sl = [] then refuse 1 3
    else if el ≠ [] ∧ cand = [] then refuse 1 4
    else
      let dc := r.stamp + classBound sel.cls
      match runDeadline s dc with
      | none => refuse 1 9
      | some (dl, k) =>
        match bestLane (passingLanes s r sel dl cand) with
        | none => refuse 1 1
        | some lane =>
          match takeBlks s (lane / 4) r.f.plen sel.nstg with
          | none => refuse 1 4
          | some blks =>
            (.accept (lowest (recordsUsed s) ((recordsUsed s).length + 1) 0),
             some (planCtx s r sel lane dl k dc blks))

/-- R38: the checks, in order. `full` says that the request found its port's queue full or the port in
squall. -/
def checks (s : State) (r : Request) (full : Bool) : Decision × Option Ctx :=
  let refuse := fun (reason detail : Nat) => ((.refuse reason detail, none) : Decision × Option Ctx)
  if !deviceReady s then refuse 1 8
  else if !pairAdmits s then refuse 1 7
  else if full then refuse 1 2
  else match lookup s r.f.orig r.f.serial.toNat with
    | .done st q e => (.dupDone st q e, none)
    | .flying => (.dupFly, none)
    | .stale => refuse 5 1
    | .busy d => refuse 1 d
    | .go =>
      let ws := selEntry s r.f.prog.toNat
      let sel := selCopy ws
      if !selValid ws then refuse 4 1
      else if sel.descs.any fun d => (stageKey r.f.payload d).isNone then refuse 4 2
      else
        let e := poolOf s r.f.pool.toNat
        match closeGuard e r.stamp with
        | some d => refuse 2 d
        | none => if !ownsPart s (pgPart e) then refuse 1 7 else checkLanes s r sel

/-- R319, R65, R63: an accepted request holds its record, slot, blocks and staging channel. -/
def reserve (s : State) (n : Nat) (x : Ctx) : State :=
  let k := getCore s x.lane
  let s := setCtx s n { x with acc := s.adm.accepted }
  let s := { s with adm := { s.adm with accepted := s.adm.accepted + 1 } }
  let s := if x.sel.nstg = 0 then s else setCore s x.lane { k with stgFree := x.relAt }
  let s := claimIndex s x.orig x.serial
  setCtx s n { getCtx s n with floor := (rowOf s (ownStream s) x.orig).elim 0 fun e => e.2.floor }

/-- The requests decided as accepted and not yet released hold what they were given. -/
def withPlans (s : State) : State :=
  s.adm.reqs.foldl (fun t r =>
    match r.st, r.dec, r.plan with
    | .decided, .accept n, some x => reserve t n x
    | _, _, _ => t) s

end Sys2Proof.Machine
end

