-- ==== Sys2Proof/Machine/Admission.lean ====
section
/-! DEFINITION. A request from its stamp to its ACK or REF, squall, and staging (R24, R35 to R37, R63 to R66,
R402, R405, R406, R497). -/

namespace Sys2Proof.Machine

/-- The host port exists and its link is UP. -/
def portUp (s : State) (p : Nat) : Bool :=
  p < hostPorts s.part.variant && (getPort s p).ls = .up && !(getPort s p).idle

/-- R402: the boot ROM hears a message on a port: it has no ACTIVE session. -/
def romHears (s : State) (p : Nat) : Bool := s.phase = .rom && portUp s p

/-- R401, R402: a TRQ that is a well-formed frame. -/
def trqOk (f : Trq) : Bool :=
  f.framed && f.zeros && f.vcOk && f.plen ≤ 1024 && f.mlen = 24 + roundUp f.plen 8 && f.payload.length = f.plen

/-- R402: a malformed frame is counted and reported. -/
def malformed (s : State) (p : Nat) : State := notice (bump s 0x4001 (p + 1)) 3

/-- R416: PCFG.ICAP. -/
def icap (x : Port) : Nat := fld x.pcfg 63 48

/-- R406: stamps (ns) in the 100 µs that end at `now`, half-open. -/
def inWindow (now : Nat) (ts : List Nat) : List Nat := ts.filter fun t => now < t + 100000 && t ≤ now

/-- R406: the port enters squall from the request that arrived at `t` on. -/
def enterSquall (s : State) (p t : Nat) : State :=
  let x := getPort s p
  if x.squall then s
  else notice (bump (setPort s p { x with squall := true, squallAt := t }) 0x4005 (p + 1)) 1

/-- R24, R402, R406, R501, R516: TRQ; its last bit reaches the port. The boot ROM has no ACTIVE session. -/
def execTrq (p : Nat) (f : Trq) (s : State) : Out :=
  if romHears s p then .next (malformed s p)
  else if !(alive s && portUp s p) then .next s
  else
    let s := stir s (p + 1)
    let x := getPort s p
    let r : Request :=
      ⟨p, if portActive s p then x.session else 0, ledgerNow s, s.now, f, .arrived, false, .none, none⟩
    let s1 := { s with adm := { s.adm with reqs := s.adm.reqs ++ [r] } }
    if trqOk f && portActive s p then
      let a := r.stamp :: inWindow r.stamp x.arrivals
      let s1 := setPort s1 p { x with arrivals := a }
      .next (if icap x < a.length then enterSquall s1 p s.now else s1)
    else .next s1

/-- R406: SQUALL_EXIT. -/
def execSquallExit (p : Nat) (s : State) : Out :=
  let x := getPort s p
  if alive s && x.squall && decide (x.squallAt + 100 * micro ≤ s.now) &&
     !(s.adm.reqs.any fun r => r.port = p && r.inQueue) && (inWindow (ledgerNow s) x.arrivals).length ≤ icap x / 2 then
    .next (notice (setPort s p { x with squall := false }) 2)
  else .next s

/-- One request goes before another: stamp, then port, then arrival (R35). -/
def rqBefore (a b : Request) : Bool :=
  a.stamp < b.stamp || (a.stamp = b.stamp && (a.port < b.port || (a.port = b.port && a.at' < b.at')))

/-- The first request in the order of R35 for which `f` holds. -/
def firstRq (rs : List Request) (f : Request → Bool) : Option Request :=
  rs.foldl (fun m r =>
    if f r then (match m with | some b => if rqBefore r b then some r else m | none => some r) else m) none

/-- A request is replaced, or removed. -/
def putRq (s : State) (r r' : Request) : State :=
  { s with adm := { s.adm with reqs := s.adm.reqs.map fun q => if q = r then r' else q } }

def dropRq (s : State) (r : Request) : State :=
  { s with adm := { s.adm with reqs := s.adm.reqs.erase r } }

/-- R37: requests in a port's admission queue. -/
def queueLen (s : State) (p : Nat) : Nat := (s.adm.reqs.filter fun r => r.port = p && r.inQueue).length

/-- R37, R402: FRAME_CHECK_COMPLETE, 0.4 µs after the stamp. -/
def execFrameCheckComplete (p : Nat) (s : State) : Out :=
  match firstRq s.adm.reqs fun r => r.port = p && r.st = .arrived with
  | none => .next s
  | some r =>
    if !alive s then .next s
    else
      let s1 := passTo s (r.at' + 400000)
      if !(trqOk r.f) || r.session = 0 then .next (malformed (dropRq s1 r) p)
      else if 32 ≤ queueLen s p then .next (enterSquall (putRq s1 r { r with st := .queued }) p r.at')
      else .next (putRq s1 r { r with st := .queued, inQueue := true })

/-- R37, R406: the request found the queue full, or stands behind its port's entry into squall. -/
def squalled (s : State) (r : Request) : Bool :=
  let x := getPort s r.port
  !r.inQueue || (x.squall && x.squallAt ≤ r.at')

/-- R35, R38: ADMISSION_DECISION on the next request, at most one every 4 cycles. -/
def execAdmissionDecision (s : State) : Out :=
  match firstRq s.adm.reqs fun r => r.st = .queued with
  | none => .next s
  | some r =>
    if !alive s then .next s
    else
      let s1 := fillUpdate (passTo s (s.adm.takenAt + 4 * cyc))
      let d := checks (withPlans s1) r (squalled s1 r)
      let s1 := putRq s1 r { r with st := .decided, dec := d.1, plan := d.2 }
      .next (fillUpdate { s1 with adm := { s1.adm with takenAt := s1.now } })

/-- R65, R66: the payload copy and the vector block. -/
def fillStaging (s : State) (x : Ctx) : State :=
  let base := fun b => winBase (x.lane / 4) + 0x40000 + 256 * b
  let s := match x.payBlks with
    | b :: _ => { s with mem := wrBytes s.mem (base b) 0 x.payload }
    | [] => s
  let ws := fixN x.sel.nstg :: x.recBlks.map fun b => ptr 5 true (blkAddr b)
  let ws := ws ++ List.replicate (32 - ws.length) ⟨0, 0⟩
  { s with mem := (ws.foldl (fun (m : Memory × Nat) w => (wrWord m.1 m.2 w, m.2 + 8)) (s.mem, base x.vecBlk)).1 }

/-- R497: accepting work onto a cell below Gale starts its exit. -/
def startExit (s : State) (c : Nat) : State :=
  let x := getCell s c
  if rungOf x = 0 || x.exitAt.isSome then s
  else setCell s c { x with exitAt := some (s.now + exitPs (rungOf x)) }

/-- R36, R42: DECISION_RELEASE, 1.1 µs after the stamp. -/
def execDecisionRelease (s : State) : Out :=
  match firstRq s.adm.reqs fun r => r.st = .decided with
  | none => .next s
  | some r =>
    if !alive s then .next s
    else
      let s1 := putRq (passTo s (r.at' + 1100000)) r { r with st := .released, inQueue := false, plan := none }
      let owe := fun (res : Option (Nat × Nat × Nat)) =>
        { s1 with adm := { s1.adm with owed := s1.adm.owed ++
          [⟨r.port, r.session, r.f.orig, r.f.serial.toNat, r.stamp, res, r.at' + 1600000⟩] } }
      match r.dec, r.plan with
      | .accept n, some x => .next (startExit (fillStaging (bump (reserve s1 n x) 0x4000 4) x) (x.lane / 4))
      | .dupDone st q e, _ => .next (owe (some (st, q, e)))
      | .dupFly, _ => .next (owe ((slotOf s1 r.f.orig r.f.serial.toNat).bind fun d =>
          if d.done then some (d.status, d.seq, d.excerpt) else none))
      | _, _ => .next s1

/-- R405: a reply that left later than due is counted and reported. -/
def lateReply (s : State) (p due : Nat) : State :=
  if due + wireSlack (getPort s p) < s.now then notice (bump s 0x4002 (p + 1)) 4 else s

/-- Where a reply of a session goes: out of a port, into a reply store, or nowhere (R413). -/
inductive ReplyTo where
  | port (p : Nat)
  | store (p : Nat)
  | lost (p : Nat)
  deriving DecidableEq, Repr

def replyTo (s : State) (session port : Nat) : ReplyTo :=
  match s.sessions.find? fun x => x.id = session with
  | some x => if x.st = 3 then .port x.port else .store x.port
  | none => .lost port

def ReplyTo.num : ReplyTo → Nat
  | .port p | .store p | .lost p => p

/-- A session is replaced. -/
def putSession (s : State) (x : Session) : State :=
  { s with sessions := s.sessions.map fun y => if y.id = x.id then x else y }

/-- R413: the order of the reply store: SEQ for a TRP; an ACK or REF goes before (log entry 30). -/
def replySeq : Emit → Nat
  | .trp _ m => m.seq
  | _ => 0

/-- Body bytes of a reply (R401). -/
def replyBytes : Emit → Nat
  | .trp _ m => 40 + m.items.length
  | _ => 24

/-- A reply as it leaves port `p`. -/
def onPort (p : Nat) : Emit → Emit
  | .ack _ o n t => .ack p o n t
  | .ref _ o n a b t => .ref p o n a b t
  | .trp _ m => .trp p m
  | e => e

/-- R413: replies in the store are in SEQ order. -/
def storeInsert (m : Emit) : List Emit → List Emit
  | [] => [m]
  | x :: r => if replySeq m < replySeq x then m :: x :: r else x :: storeInsert m r

/-- R413: the ACTIVE session of a port that still has replies in its store. -/
def storeOf (s : State) (p : Nat) : Option (Session × Emit) :=
  if portActive s p then
    (s.sessions.find? fun x => x.id = (getPort s p).session).bind fun x => x.store.head?.map fun m => (x, m)
  else none

/-- R413: a reply enters the store of a parked session, or is dropped and counted. -/
def storeReply (s : State) (session : Nat) (m : Emit) : State :=
  match s.sessions.find? fun x => x.id = session with
  | some x =>
    if x.store.length < 4096 then putSession s { x with store := storeInsert m x.store }
    else bump s 0x4007 (x.port + 1)
  | none => s

/-- R404: an ACK or REF that leaves while a TRP of its port is on the wire goes between two of its fragments. -/
def insertIn (s : State) (p : Nat) : State :=
  let x := getPort s p
  if s.now < x.trpEnd then setPort s p { x with trpEnd := x.trpEnd + wirePs x 32 } else s

/-- A reply to the request `r`, due 1.6 µs after its stamp (R36, R405), goes where its session has it go; the
replies in the store of the session go first (R413). -/
def answerRq (s : State) (r : Request) (e : Emit) (f : State → State) : State :=
  let due := r.at' + 1600000
  match replyTo s r.session r.port with
  | .port p =>
    if canSend s p 0 24 && (storeOf s p).isNone then
      lateReply (f (insertIn (sendOn (passTo (dropRq s r) due) p 0 24 (some (onPort p e)) (onPort p e)) p)) p due
    else s
  | .store _ => f (storeReply (passTo (dropRq s r) due) r.session e)
  | .lost _ => dropRq s r

/-- The request whose answer is due first on port `p` among those for which `f` holds. -/
def nextAnswer (s : State) (p : Nat) (f : Decision → Bool) : Option Request :=
  firstRq s.adm.reqs fun r => r.st = .released && f r.dec && (replyTo s r.session r.port).num = p

/-- R42, R403: a DUPLICATE falls due at the first word boundary after the last word of its ACK. -/
def dupAfterAck (s : State) (r : Request) : State :=
  { s with adm := { s.adm with owed := s.adm.owed.map fun d =>
    if d.port = r.port ∧ d.orig = r.f.orig ∧ d.serial = r.f.serial.toNat ∧ d.stamp = r.stamp then
      { d with dueAt := max d.dueAt (s.now + wirePs (getPort s (replyTo s r.session r.port).num) 32) }
    else d } }

/-- R36: ACK. -/
def execAck (p : Nat) (s : State) : Out :=
  match nextAnswer s p fun d => (match d with | .accept _ | .dupDone .. | .dupFly => true | _ => false) with
  | some r =>
    if alive s then .next (answerRq s r (.ack p r.f.orig r.f.serial.toNat r.stamp) fun s => dupAfterAck s r) else .next s
  | none => .next s

/-- R86: REF, with reason and detail. -/
def execRef (p : Nat) (s : State) : Out :=
  match nextAnswer s p fun d => (match d with | .refuse .. => true | _ => false) with
  | some r =>
    (match r.dec with
     | .refuse reason detail =>
       if alive s then
         .next (answerRq s r (.ref p r.f.orig r.f.serial.toNat reason detail r.stamp) fun s => bump s 0x4000 5)
       else .next s
     | _ => .next s)
  | none => .next s

-- staging

/-- The context of a lane in STAGING that was accepted first, among those for which `f` holds. -/
def firstStaging (s : State) (lane : Nat) (f : Ctx → Bool) : Option (Nat × Ctx) :=
  (s.ctxs.filter fun e => e.2.st = .staging && e.2.lane = lane && f e.2).foldl (fun m e =>
    match m with
    | some b => if e.2.acc < b.2.acc then some e else m
    | none => some e) none

/-- R63, R356: STAGING_RECORD_ISSUE; the read is checked as it enters the mesh (R368). -/
def execStagingRecordIssue (lane : Nat) (s : State) : Out :=
  let k := getCore s lane
  match firstStaging s lane fun x => x.staged < x.sel.nstg with
  | some (n, x) =>
    if alive s && cellAwake s lane && k.stgFly.isNone then
      let t := x.relAt - (x.sel.nstg - x.staged) * 320000
      let s1 := passTo s t
      let d := x.sel.descs.getD x.staged 0
      let v := rangeFail s1 ⟨some (lane / 4), x.sel.priv, x.sel.akey⟩ .read (stageAddr x.payload d) (sdLen d)
      let s1 := match v with | some (_, _, true) => bump s1 0x4000 3 | _ => s1
      .next (setCore s1 lane { k with stgFly := some ⟨n, x.staged, max t s.now + 320000, v.isSome⟩ })
    else .next s
  | none => .next s

/-- R64: words of a staged record as they reach cell memory. -/
def stagedWords (s : State) (cell : Option Nat) (a len : Nat) (fail : Bool) : List TWord :=
  (List.range (len / 8)).map fun i =>
    if fail then ⟨0xF3, BitVec.ofNat 64 (a + 8 * i)⟩ else rdWord s.mem (physOf cell (a + 8 * i))

/-- Uncorrectable errors of a staged read are reported (R445 code x07). -/
def badWords (s : State) (a : Nat) (bad : List Nat) : State :=
  bad.foldl (fun s i => dramReport s .double (a + 8 * i)) s

/-- R63, R64, R328: STAGING_RECORD_ARRIVAL; the last record releases the context. -/
def execStagingRecordArrival (lane : Nat) (bad : List Nat) (s : State) : Out :=
  let k := getCore s lane
  match k.stgFly with
  | none => .next s
  | some f =>
    if !alive s then .next s
    else
      let s1 := setCore (passTo s f.due) lane { k with stgFly := none }
      let x := getCtx s f.n
      if x.st ≠ .staging || x.lane ≠ lane then .next s1
      else
        let d := x.sel.descs.getD f.i 0
        let a := stageAddr x.payload d
        let s1 := if f.fail then s1 else badWords s1 a bad
        let ws := stagedWords s1 (some (lane / 4)) a (sdLen d) (f.fail || bad ≠ [])
        let p := winBase (lane / 4) + 0x40000 + 256 * x.recBlks.getD f.i 0
        let m := (ws.foldl (fun (m : Memory × Nat) w => (wrWord m.1 m.2 w, m.2 + 8)) (s1.mem, p)).1
        let s1 := setCtx { s1 with mem := m } f.n { x with staged := f.i + 1 }
        .next (if x.sel.nstg ≤ f.i + 1 then release s1 f.n s1.now else s1)

/-- R56, R328: STAGING_START of a transaction without staged records, at its release time. -/
def execStagingStart (lane : Nat) (s : State) : Out :=
  match firstStaging s lane fun x => x.sel.nstg = 0 with
  | some (n, x) =>
    if alive s && cellAwake s lane then
      let s1 := passTo s x.relAt
      .next (release s1 n s1.now)
    else .next s
  | none => .next s

end Sys2Proof.Machine
end

