-- ==== Sys2Proof/Machine/CanPort.lean ====
section
/-! DEFINITION. The CAN FD port as a whole: silence and the communication reset (R524, R525, R529). -/

namespace Sys2Proof.Machine

/-- R524: the port neither transmits nor acknowledges; requests and transfers are dropped. -/
def portSilent (s : State) : State :=
  { s with mgmt := { s.mgmt with bus := 3, nmt := .initialising, sdo := none, sdoAns := [] } }

/-- R463, R525: the boot-up frame, within the output limits. -/
def bootUpFrame (s : State) : State := canFrame s false (.bootUp (fdFrames s) s.mgmt.nodeUse)

/-- R525: a communication reset; the x1000 objects return to their defaults, x2002 and x2010 apply, and an
open transfer ends without an abort (R529). -/
def commReset (s : State) : State :=
  if s.mgmt.nodeId = 0 then portSilent s
  else
    let s1 := { portSilent s with mgmt := { (portSilent s).mgmt with
      errs := []
      hbMs := 1000
      nodeUse := s.mgmt.nodeId
      canUse := s.mgmt.canSet
      bus := if s.mgmt.bus = 3 then 0 else s.mgmt.bus
      nmt := .preOperational
      hbAt := s.now } }
    bootUpFrame s1

end Sys2Proof.Machine
end

