-- ==== Sys2Proof/WellFormed.lean ====
section
/-! DEFINITION. Well-formed commands: operands that fit the fields of the encoding (chapter 04) or the
range of the unit they name. A term outside these ranges names nothing that could be sent. Reserved
encodings are well-formed: they raise UNDEFINED_INSTRUCTION. -/

namespace Sys2Proof

/-- R149: D has 12 bits, or 20 with EXT; an index only in mode b000. -/
def SMem.wf (m : SMem) : Bool :=
  (m.ext || decide (m.d.toNat < 4096)) && (decide (m.am = .based) || decide (m.x = 0))

/-- The specifier is the long one of R140. -/
def Mem.isLong : Mem → Bool
  | .reg (.long _) | .reg (.longX ..) => true
  | _ => false

/-- The first memory operand of an instruction. -/
def Mem.wf : Mem → Bool
  | .reg _ => true
  | .sto m => m.wf

/-- The mode whose formats hold the specifier: true for storage mode. -/
def Mem.storage : Mem → Bool
  | .reg _ => false
  | .sto _ => true

/-- A further operand: of the same mode, and never long (R132). -/
def Mem.wfNext (m0 m : Mem) : Bool := m.wf && !m.isLong && (m.storage == m0.storage)

/-- R148: a 4-bit register field. -/
def lowReg (r : Reg) : Bool := decide (r.val < 16)

def AluForm.wf : AluForm → Bool
  | .rr .. => true
  | .sr a b => lowReg a && lowReg b
  | .sx a m => lowReg a && m.wf

def UnForm.wf : UnForm → Bool
  | .rr .. => true
  | .sr a b => lowReg a && lowReg b

def FForm.wf : FForm → Bool
  | .rr .. => true
  | .sr a b => lowReg a && lowReg b
  | .sx a m => lowReg a && m.wf

/-- A length in an n-valued field that holds it minus one. -/
def lenIn (n l : Nat) : Bool := decide (1 ≤ l) && decide (l ≤ n)

def DForm.wf : DForm → Bool
  | .mm l1 l2 m1 m2 => lenIn 256 l1 && lenIn 256 l2 && m1.wf && Mem.wfNext m1 m2
  | .mmm l1 l2 l3 m1 m2 m3 =>
    lenIn 32 l1 && lenIn 32 l2 && lenIn 32 l3 && m1.wf && !m1.isLong && Mem.wfNext m1 m2 && Mem.wfNext m1 m3
  | .aa .. => true

def StrForm.wf : StrForm → Bool
  | .reg .. => true
  | .sto a b => lowReg a && lowReg b

def BrcForm.wf : BrcForm → Bool
  | .rel .. => true
  | .sto _ m => m.wf

def BrlForm.wf : BrlForm → Bool
  | .rel _ => true
  | .sto r m => lowReg r && m.wf

/-- A register and a memory operand: RM of R137 or SX of R148. -/
def rmWf (r : Reg) (m : Mem) : Bool := m.wf && (!m.storage || lowReg r)

def twoWf (l1 l2 : Nat) (m1 m2 : Mem) : Bool :=
  lenIn 256 l1 && lenIn 256 l2 && m1.wf && Mem.wfNext m1 m2

def RepOp.wf : RepOp → Bool
  | .ld _ r m | .st _ r m | .ldf r m | .stf r m => rmWf r m
  | .lda _ _ l m | .sta _ _ l m => lenIn 64 l && m.wf
  | .dec _ f => f.wf
  | .dsrd l _ _ m => lenIn 256 l && m.wf
  | .conv _ l1 l2 m1 m2 => twoWf l1 l2 m1 m2
  | .movp l1 l2 _ m1 m2 => twoWf l1 l2 m1 m2
  | .alu _ r m | .fp _ r m => lowReg r && m.wf
  | .other n => decide (n ≤ 15)

def CustBody.wf : CustBody → Bool
  | .rm _ m => m.wf
  | _ => true

/-- A lane or a steward core. -/
def coreOk (c : Nat) : Bool := decide (c < 260)
/-- A host port. -/
def portOk (p : Nat) : Bool := decide (p < 8)
/-- A port, M0 included. -/
def anyPort (p : Nat) : Bool := decide (p < 9)
def laneOk (l : Nat) : Bool := decide (l < 256)
def cellOk (n : Nat) : Bool := decide (n < 64)

/-- The operands of a command are in range. -/
def Instr.wf : Instr → Bool
  | .mode c .. | .identUnitPresence c .. | .identContext c .. | .identVersions c ..
  | .identPair c .. | .tcommit c .. | .tabort c .. | .tyield c | .gate c .. | .gret c => coreOk c
  | .add c f | .sub c f | .mul c f | .div c f | .cmp c f | .and c f | .or c f | .xor c f => coreOk c && f.wf
  | .shl c f | .shr c f | .sar c f => coreOk c && (match f with | .sx .. => false | f => f.wf)
  | .neg c f | .mov c f | .fsqrt c f | .fcvtToFix c f | .fcvtToFloat c f | .mfsr c f | .mtsr c f =>
    coreOk c && f.wf
  | .addi c .. | .cmpi c .. | .shli c .. | .shri c .. | .sari c .. | .andi c .. | .ori c ..
  | .xori c .. | .ldi c .. | .ldiw c .. | .addg c .. | .subg c .. | .mulg c .. | .divg c ..
  | .cmpg c .. | .tagr c .. | .tags c .. | .cons c .. | .head c .. | .tail c .. | .seth c ..
  | .sett c .. | .ldp c .. | .stp c .. | .fmov c .. | .jmp c .. | .jmpl c .. | .pairWord c .. => coreOk c
  | .ld1 c r m | .ld2 c r m | .ld4 c r m | .ld8 c r m | .st1 c r m | .st2 c r m | .st4 c r m
  | .st8 c r m | .ldf c r m | .stf c r m | .ldm c r m | .stm c r m => coreOk c && rmWf r m
  | .lda c _ _ l m | .sta c _ _ l m => coreOk c && lenIn 64 l && m.wf
  | .dadd c f | .dsub c f | .dmul c f _ | .ddiv c f _ => coreOk c && f.wf
  | .dcmp c f => coreOk c && (match f with | .mmm .. => false | f => f.wf)
  | .dsrd c l _ _ m => coreOk c && lenIn 256 l && m.wf
  | .pack c l1 l2 m1 m2 | .unpk c l1 l2 m1 m2 | .cvpd c l1 l2 m1 m2 | .cvdp c l1 l2 m1 m2
  | .movp c l1 l2 _ m1 m2 | .edit c l1 l2 m1 m2 _ | .edmk c l1 l2 m1 m2 _ => coreOk c && twoWf l1 l2 m1 m2
  | .movs c f _ | .cmps c f _ | .trns c f _ | .scan c f _ => coreOk c && f.wf
  | .fadd c f | .fsub c f | .fmul c f | .fdiv c f | .fcmp c f => coreOk c && f.wf
  | .brc c f => coreOk c && f.wf
  | .brl c f => coreOk c && f.wf
  | .bct c r m => coreOk c && lowReg r && m.wf
  | .cust c pre _ b => coreOk c && decide (pre.length ≤ 12) && b.wf
  | .repi c op _ => coreOk c && op.wf
  | .repu c op => coreOk c && op.wf
  | .exceptionEntry c | .budgetOverrun c | .stop c _ | .preemption c | .dispatch c | .farVerdict c
  | .farDataArrival c _ | .farWriteAcknowledgement c | .farPreRead c _ | .dramLineFetch c _
  | .storeBufferDrain c => coreOk c
  | .trq p _ | .squallExit p | .frameCheckComplete p | .ack p | .ref p | .trp p | .jrd p _
  | .jda p .. | .jdr p .. | .lgr p .. | .mrqRead p .. | .mrqWrite p .. | .mrqSignedWrite p ..
  | .mrs p | .tsy p .. | .tdq p | .tdr p .. | .bof p .. | .bdt p .. => portOk p
  | .stagingRecordIssue l | .stagingRecordArrival l _ | .stagingStart l => laneOk l
  | .laneSignalDetect p | .negotiateComplete p .. | .equalizeComplete p _ | .lossOfLock p
  | .relock p | .recoverTimeout p | .dataFlit p .. | .nak p _ | .replayTimeout p
  | .idleExit p | .hail (.own p) | .hail (.far p _) | .hrp p .. | .idleFlit p .. => anyPort p
  | .init h .. | .idleReq h | .idleAck h => anyPort h.port
  | .cellSelfTest n _ | .overTemperature n _ | .cladOff n _ | .cladOn n _ | .cladRdy n _
  | .cellDescent n | .wake n => cellOk n
  | .keyTableWrite b _ _ => decide (b < 4194304)
  | .regionShadowWrite n .. => decide (n < 1024)
  | .selectorWrite _ ws => decide (ws.length = 16)
  | .soloGrantExpiry k => decide (k < 16)
  | _ => true

end Sys2Proof
end

