-- ==== Sys2Proof/Machine/Operands.lean ====
section
/-! DEFINITION. Operand forms: effective addresses of both modes (R114 to R121), lengths of
specifiers, side effects of storage specifiers, evacuation checks of a base (R187). -/

namespace Sys2Proof.Machine

/-- An effective address: the address, the pointer that supplied it, and the side effect on its base
register at completion (R118). -/
structure Ea where
  a : Nat
  src : Option TWord
  upd : Option (Reg × Int)
  deriving DecidableEq, Repr

/-- REGION_PROTECTION for an address sum outside the 40-bit space (R116, R568). -/
def outOfSpace {α : Type} (info : Nat) (v : Int) : Except Stop α :=
  raise 6 info ((v % (2 ^ 40 : Int)).toNat / 256)

/-- R178: address `a` lies in evacuation entry `v`. -/
def inEvac (v : Word) (a : Nat) : Bool :=
  bit v 63 && a / 2 ^ fld v 53 48 = fld v 39 0 / 2 ^ fld v 53 48

/-- The lowest evacuation entry of a cell that holds the address (R189). -/
def evacFind (s : State) (n a : Nat) : Option Nat :=
  (List.range 64).find? fun e => inEvac (heapWord s n (64 + e)) a

/-- HCTL.EVE of the cell of a core. -/
def eveOn (s : State) (c : Nat) : Bool :=
  match cellOf c with
  | some n => bit (heapWord s n 0) 1
  | none => false

/-- R187: the entry in which a pointer lies, for a Ledger or Rule context with EVE set. -/
def barrierAt (s : State) (c : Nat) (w : TWord) : Option Nat :=
  match cellOf c with
  | some n =>
    if bit (heapWord s n 0) 1 && 2 ≤ (curBank s c).priv && isPtr w then evacFind s n (fld w.pay 39 0)
    else none
  | none => none

/-- R187, R189: READ_BARRIER for a base pointer. -/
def baseBarrier (s : State) (c : Nat) (w : Option TWord) : Except Stop Unit :=
  match w with
  | some w => (match barrierAt s c w with | some e => raise 0x13 e 0 | none => .ok ())
  | none => .ok ()

/-- R187 to R189: READ_BARRIER for a loaded or stored word; `fwd` when a FWD itself counts (R188). -/
def wordBarrier (s : State) (c : Nat) (w : TWord) (fwd : Bool) : Except Stop Unit :=
  if fwd && tagClass w = 8 && 2 ≤ (curBank s c).priv && c < 256 then raise 0x13 0xC0 0
  else match barrierAt s c w with
    | some e => raise 0x13 (0x80 + e) 0
    | none => .ok ()

/-- R115, R116: a register-mode base. -/
def baseReg (s : State) (c info : Nat) (b : Reg) : Except Stop TWord := do
  let w ← rdG s c b
  if isPoison w then poisonUse w
  else if !isPtr w || fld w.pay 63 40 ≠ 0 then tagMismatch info w
  else .ok w

/-- R115: a register-mode index, scaled. -/
def indexReg (s : State) (c info : Nat) (sc : BitVec 2) (x : Reg) : Except Stop Int := do
  let w ← rdG s c x
  if isPoison w then poisonUse w
  else if !isFix w then tagMismatch info w
  else .ok (w.pay.toInt * 2 ^ sc.toNat)

/-- R117: a write through a pointer with the immutable bit set. -/
def immutable (info : Nat) (write : Bool) (w : TWord) : Except Stop Unit :=
  if write && isPtr w && isImm w then tagMismatch info w else .ok ()

def inSpace (info : Nat) (v : Int) : Except Stop Nat :=
  if 0 ≤ v ∧ v < 2 ^ 40 then .ok v.toNat else outOfSpace info v

/-- The short-address window (R114, R118). -/
def xbWindow (s : State) (c : Nat) (v : Int) : Nat :=
  (curBank s c).xb.toNat * 65536 + (v % 65536).toNat

/-- R114 to R117: a register-mode effective address. -/
def eaReg (s : State) (c info : Nat) (write : Bool) (m : RMem) : Except Stop Ea := do
  match m with
  | .ptr b d =>
    let w ← baseReg s c info b
    immutable info write w
    let a ← inSpace info ((fld w.pay 39 0 : Int) + d.toInt)
    baseBarrier s c (some w)
    .ok ⟨a, some w, none⟩
  | .ptrX sc b x d =>
    let w ← baseReg s c info b
    let i ← indexReg s c info sc x
    immutable info write w
    let a ← inSpace info ((fld w.pay 39 0 : Int) + i + d.toInt)
    baseBarrier s c (some w)
    .ok ⟨a, some w, none⟩
  | .short o => .ok ⟨xbWindow s c o.toNat, none, none⟩
  | .shortX sc x o =>
    let i ← indexReg s c info sc x
    .ok ⟨xbWindow s c (o.toNat + i), none, none⟩
  | .long a => .ok ⟨a.toNat, none, none⟩
  | .longX sc x a =>
    let i ← indexReg s c info sc x
    let v ← inSpace info ((a.toNat : Int) + i)
    .ok ⟨v, none, none⟩

/-- R119: a storage-mode base, index or indirect word. -/
def storageWord (info : Nat) (ptrOk : Bool) (w : TWord) : Except Stop Unit :=
  if isPoison w then poisonUse w
  else if isInt w || (ptrOk && isPtr w) then .ok ()
  else tagMismatch info w

/-- A storage-mode base or index register; field 0 means none. -/
def storageReg (s : State) (c info : Nat) (ptrOk : Bool) (r : Fin 16) : Except Stop (Option TWord) :=
  if r = 0 then .ok none
  else do
    let w ← rdG s c (Fin.castLE (by decide) r)
    storageWord info ptrOk w
    .ok (some w)

/-- A(S) of R118, range-checked as R119 states. -/
def addrOf (s : State) (c info : Nat) (base : Option TWord) (sum : Int) : Except Stop Nat :=
  match base with
  | some w =>
    if isPtr w then inSpace info ((BitVec.ofInt 64 sum).toInt) else .ok (xbWindow s c sum)
  | none => .ok (xbWindow s c sum)

def payInt (w : Option TWord) : Int := match w with | some w => w.pay.toNat | none => 0

/-- The pointer among the words that can supply an address. -/
def ptrOf (w : Option TWord) : Option TWord := w.bind fun w => if isPtr w then some w else none

/-- R118 to R121: a storage-mode address for an operand of `len` bytes, or, without `touch`, for a branch target, at which
no word is accessed: only an indirect word's own base is then the base of an access (R187). -/
def addrSto (touch : Bool) (s : State) (c info len : Nat) (write : Bool) (m : SMem) : Except Stop Ea := do
  let bar := fun (w : Option TWord) => if touch then baseBarrier s c w else .ok ()
  let b ← storageReg s c info true m.b
  let x ← storageReg s c info false m.x
  let d : Int := m.d.toNat
  match m.am with
  | .based =>
    (match ptrOf b with | some w => immutable info write w | none => .ok ())
    let a ← addrOf s c info b (payInt b + payInt x + d)
    bar (ptrOf b)
    .ok ⟨a, ptrOf b, none⟩
  | .indirect =>
    let a ← addrOf s c info b (payInt b + d)
    baseBarrier s c (ptrOf b)
    if a % 8 ≠ 0 then raise 4 info (a % 2 ^ 32)
    else
      checkBytes s c .read info a 8
      needFar s c [(a, 8)]
      let w := wholeWord s c a
      storageWord info true w
      (match ptrOf (some w) with | some w => immutable info write w | none => .ok ())
      bar (ptrOf (some w))
      if isPtr w then .ok ⟨fld w.pay 39 0, some w, none⟩
      else .ok ⟨xbWindow s c w.pay.toNat, none, none⟩
  | .postInc =>
    (match ptrOf b with | some w => immutable info write w | none => .ok ())
    let a ← addrOf s c info b (payInt b + d)
    bar (ptrOf b)
    .ok ⟨a, ptrOf b, some (Fin.castLE (by decide) m.b, len)⟩
  | .preDec =>
    (match ptrOf b with | some w => immutable info write w | none => .ok ())
    let a ← addrOf s c info b (payInt b + d - len)
    bar (ptrOf b)
    .ok ⟨a, ptrOf b, some (Fin.castLE (by decide) m.b, -(len : Int))⟩

/-- A storage-mode effective address. -/
def eaSto (s : State) (c info len : Nat) (write : Bool) (m : SMem) : Except Stop Ea := addrSto true s c info len write m

/-- R143, R150: the target of a storage-mode branch, operand `info`; a post-increment or pre-decrement operand moves by 8
(log entry 120). -/
def targetSto (s : State) (c info : Nat) (m : SMem) : Except Stop Ea := addrSto false s c info 8 false m

/-- The effective address of operand `info`, of `len` bytes. -/
def eaOf (s : State) (c info len : Nat) (write : Bool) (m : Mem) : Except Stop Ea :=
  match m with
  | .reg m => eaReg s c info write m
  | .sto m => eaSto s c info len write m

/-- R92: the words of a binary64 operand at `a`, each tagged FLT or RAW, and its bits. -/
def fltAt (s : State) (c info a : Nat) : Except Stop Word := do
  let bs ← wholeBytes s c a 8
  match [wholeWord s c a, wholeWord s c (a + 7)].find? fun w => w.tag ≠ 0x30 ∧ w.tag ≠ 0 with
  | some w => tagMismatch info w
  | none => .ok (BitVec.ofNat 64 (beNat bs))

/-- The far words that an operand's address needs (R276). -/
def farOf {α : Type} (r : Except Stop α) : List Nat := match r with | .error (.far ws) => ws | _ => []

/-- R276: the far words of an instruction's operands whose addresses are known are read in one round. -/
def withFar {α : Type} (r : Except Stop α) (more : List Nat) : Except Stop α :=
  match r with
  | .error (.far ws) => .error (.far (ws ++ more).eraseDups)
  | r => r

/-- R120, R121: the side effects of the operands, in operand order, on values as they now stand: a base register that
the instruction has also written as its result moves on from the result (log entry 121). -/
def applySides (s : State) (c : Nat) : List Ea → State
  | [] => s
  | e :: r =>
    match e.upd with
    | some (b, k) =>
      let w := peekG s c b
      applySides (wrG s c b ⟨w.tag, w.pay + BitVec.ofInt 64 k⟩) c r
    | none => applySides s c r

-- encodings

/-- Bytes of a specifier; the LONG prefix counts with it (R132, R139, R140, R149). -/
def memBytes : Mem → Nat
  | .reg (.long _) | .reg (.longX ..) => 7
  | .reg _ => 4
  | .sto m => if m.ext then 4 else 3

/-- A reserved encoding of R149: post-increment and pre-decrement with no base. -/
def memReserved (m : SMem) : Bool := (m.am = .postInc || m.am = .preDec) && m.b = 0

/-- Offset of the byte that makes a specifier at offset `o` undefined, if one does. -/
def memUnd (o : Nat) : Mem → Option Nat
  | .sto m => if memReserved m then some o else none
  | .reg _ => none

/-- Registers that a specifier reads, as resources of the schedule. -/
def memSrcs : Mem → List Nat
  | .reg (.ptr b _) => [b.val]
  | .reg (.ptrX _ b x _) => [b.val, x.val]
  | .reg (.shortX _ x _) | .reg (.longX _ x _) => [x.val]
  | .reg _ => []
  | .sto m => [m.b.val, m.x.val]

/-- R292: what a storage specifier adds to the count. -/
def memCost : Mem → Nat
  | .reg _ => 0
  | .sto m => (match m.am with | .based => 0 | .indirect => 4 | .postInc | .preDec => 1) + b2n m.ext

/-- The schedule of an instruction: whole-core in storage mode, pipelined otherwise (R271). -/
def tmOf (storage fm : Bool) (unit : Fu) (srcs dsts : List Nat) (data : List Nat := []) : Tm :=
  ⟨storage, fm, unit, srcs, data, dsts⟩

/-- R147: offset of the byte that makes a shared-block RR form undefined in storage mode. -/
def sharedUnd (s : State) (c : Nat) (rs : List (Reg × Nat)) : Option Nat :=
  if (curBank s c).smode then ((rs.find? fun e => !lowReg e.1).map fun e => e.2) else none

/-- R213: a failed check of the mod-999 or mod-9 residue raises MACHINE_CHECK before anything is written. -/
def residueStep (m : Nat) (ok : Bool) : Except Stop Unit :=
  if ok then .ok () else raise 0x1E (if m = 999 then 0x31 else 0x32) 0

end Sys2Proof.Machine
end

