-- ==== Sys2Proof/Machine/System.lean ====
section
/-! DEFINITION. The shared block: MODE, IDENT, TCOMMIT, TABORT, TYIELD, GATE and GRET (R70 to R73, R107,
R108, R124, R330, R336 to R340, R349). -/

namespace Sys2Proof.Machine

/-- A shared-block instruction: either mode, whole-core. -/
def sharedRun (i : Instr) (c len : Nat) (und : Option Nat) (srcs : List Nat) : Run :=
  ⟨c, none, len, und, Tm.core srcs, i.wf⟩

/-- R107, R108: MODE with its immediate. -/
def modeBody (c : Nat) (imm : BitVec 8) (s : State) : Except Stop Done := do
  let b := curBank s c
  let m := imm = 1
  if b.smode = m then .ok (Done.of s 6)
  else
    let a := b.ia.toNat + 2
    match byteFail s (whoOf s c) (.fetch m) a with
    | some (6, sl) => .error (.exc { Exc.mk3 6 0x0F (a / 256 % 2 ^ 32) with sealHit := sl })
    | _ => .ok (Done.of (setBank s c (b.setMode m)) 6)

def execMode (c : Nat) (prefixed : Bool) (imm : BitVec 8) (s : State) : Out :=
  runCore s (sharedRun (.mode c prefixed imm) c (if prefixed then 3 else 2)
    (if prefixed then some 1 else if imm.toNat < 2 then none else some 1) []) (modeBody c imm)

-- IDENT

def identRun (i : Instr) (s : State) (c : Nat) (rd : Reg) : Run := sharedRun i c 3 (sharedUnd s c [(rd, 1)]) []

/-- R124: a FIX result in 4 cycles. -/
def identBody (c : Nat) (rd : Reg) (v : State → Nat) (s : State) : Except Stop Done :=
  .ok (Done.of (wrG s c rd (fixN (v s))) 4)

/-- R4: the unit-presence mask. -/
def unitMask : Variant → Nat
  | .g => 0x40FF03
  | .m => 0x30FF03
  | .e => 0x200F00

/-- R124, selector 1: a steward core's identity, or context and lane. DESIGN CHOICE (log entry 139): of a ledger core in
steward entry, which runs no context, the context number reads 0. -/
def identCtx (c : Nat) (s : State) : Nat :=
  if 256 ≤ c then 2 ^ 24 + (c - 256) * 2 ^ 25
  else match (getCore s c).running with
    | some n => n + c * 2 ^ 16
    | none => c * 2 ^ 16

/-- R124, selector 2. -/
def versions (s : State) : Nat := s.part.stepping + s.boot.mcVersion * 2 ^ 16 + s.boot.stVersion * 2 ^ 32

def identPairBits (s : State) : Nat := ownStream s + 2 * b2n (joined s)

def execIdentUnitPresence (c : Nat) (rd : Reg) (s : State) : Out :=
  runCore s (identRun (.identUnitPresence c rd) s c rd) (identBody c rd fun s => unitMask s.part.variant)
def execIdentContext (c : Nat) (rd : Reg) (s : State) : Out :=
  runCore s (identRun (.identContext c rd) s c rd) (identBody c rd (identCtx c))
def execIdentVersions (c : Nat) (rd : Reg) (s : State) : Out :=
  runCore s (identRun (.identVersions c rd) s c rd) (identBody c rd versions)
def execIdentPair (c : Nat) (rd : Reg) (s : State) : Out :=
  runCore s (identRun (.identPair c rd) s c rd) (identBody c rd identPairBits)

-- the journal guard

/-- The first body byte from `lo` to `hi - 1` for which `f` holds. -/
def firstAt (f : Nat → Bool) (lo hi : Nat) : Option Nat := ((List.range (hi - lo)).map (· + lo)).find? f

/-- R73: the journal guard walk over a body whose bytes `po` lie in POISON words: the offset of the bad
byte, or none. -/
def guardWalk (bs : List Byte) (po : List Bool) : Nat → Nat → Nat → Option Nat
  | 0, o, _ => if o < bs.length then some o else none
  | n + 1, o, rb =>
    if bs.length ≤ o then none
    else if bs.length < o + 8 then some o
    else match firstAt (fun i => po.getD i false) o (o + 8) with
      | some i => some i
      | none =>
        let t := field bs o 2
        let pd := roundUp (field bs (o + 2) 2) 8
        if t < 1 ∨ 0x7FFF < t then some o
        else match firstAt (fun i => bs.getD i 0 ≠ 0) (o + 4) (o + 8) with
          | some i => some i
          | none =>
            if bs.length < o + 8 + pd then some o
            else match firstAt (fun i => po.getD i false) (o + 8) (o + 8 + pd) with
              | some i => some i
              | none =>
                let rb := if 0x4000 ≤ t then rb + 8 + pd else rb
                if 128 < rb then some o else guardWalk bs po n (o + 8 + pd) rb

/-- R72: the reply items of a body, with their headers and padding. -/
def replyItems (bs : List Byte) : Nat → Nat → List Byte
  | 0, _ => []
  | n + 1, o =>
    if bs.length < o + 8 then []
    else
      let k := 8 + roundUp (field bs (o + 2) 2) 8
      (if 0x4000 ≤ field bs o 2 ∧ field bs o 2 ≤ 0x7FFF then slice bs o k else []) ++ replyItems bs n (o + k)

/-- R73: what the record carries: the body, or the device item that locates the bad byte. -/
def guarded (bs : List Byte) (po : List Bool) : Option Nat × List Byte :=
  match guardWalk bs po (bs.length / 8 + 1) 0 0 with
  | some o => (some o, mkItem 0x8001 (beBytes 8 o))
  | none => (none, bs)

/-- R70 step 5: the first failing byte of the body. -/
def bodyFail (s : State) (c a : Nat) : Nat → Option (Nat × Nat × Bool)
  | 0 => none
  | n + 1 =>
    match locOf s.part (cellOf c) a with
    | .cell k _ =>
      if cellOf c = some k then
        match byteFail s (whoOf s c) .read a with
        | some (code, sl) => some (a, code, sl)
        | none => bodyFail s c (a + 1) n
      else some (a, 6, false)
    | _ => some (a, 6, false)

/-- R70, R71: the checks of TCOMMIT and TABORT; the address and length of the body, and the reason. -/
def endChecks (s : State) (c : Nat) (ra rb : Reg) (rd : Option Reg) : Except Stop (Nat × Nat × Nat) := do
  let p ← rdG s c ra
  let l ← rdG s c rb
  let r ← match rd with | some r => rdG s c r | none => .ok (fixN 1)
  if isPoison p then poisonUse p
  else if isPoison l then poisonUse l
  else if isPoison r then poisonUse r
  else if !isPtr p || fld p.pay 63 40 ≠ 0 then tagMismatch 1 p
  else if !isFix l || 896 < l.pay.toNat || l.pay.toNat % 8 ≠ 0 then tagMismatch 2 l
  else if !isFix r || r.pay = 0 || 0x7FFF < r.pay.toNat then tagMismatch 3 r
  else
    let a := fld p.pay 39 0
    (if l.pay = 0 then .ok () else baseBarrier s c (some p))
    match bodyFail s c a l.pay.toNat with
    | some (b, code, sl) => .error (.exc { Exc.mk3 code 1 (b / 256 % 2 ^ 32) with sealHit := sl })
    | none => .ok (a, l.pay.toNat, r.pay.toNat)

/-- TCOMMIT (`rd` none) and TABORT: the record joins the commit path and the context leaves the ledger;
`finishEnd` completes it at the retirement. -/
def endBody (c : Nat) (ra rb : Reg) (rd : Option Reg) (s : State) : Except Stop Done := do
  if (curBank s c).priv = 3 ∨ !onCtx s c then raise 2 0 0
  else
    let e ← endChecks s c ra rb rd
    let bs := seeBytes s c e.1 e.2.1
    let po := (List.range e.2.1).map fun i => isPoison (seeWord s c (e.1 + i))
    let g := guarded bs po
    let status := if g.1.isSome then 2 else if rd.isSome then 1 else 0
    let reason := if g.1.isSome then 0xF1 else if rd.isSome then e.2.2 else 0
    match (getCore s c).running with
    | some n => .ok (Done.of (endTx s n .ending status reason g.2) 16)
    | none => .ok (Done.of s 16)

/-- A list with its last element changed. -/
def mapLast {α : Type} (f : α → α) : List α → List α
  | [] => []
  | [r] => [f r]
  | r :: q => r :: mapLast f q

/-- R69, R74: at the retirement of TCOMMIT or TABORT, the record takes its DONE and CYCLES, and the
overrun state its STATUS and REASON; its mesh transfer is presented (R20), and the core is free. DESIGN CHOICE (log entry
138): R69 settles the counter that reaches zero in the retirement cycle alone; one that reaches zero before it, while the
instruction runs, is an overrun here. -/
def finishEnd (s : State) (c n : Nat) : State :=
  let x := getCtx s n
  let late := x.base.ovr && decide (x.win < 7600)
  let f := fun (r : Rec) => { r with
    done := ledgerNow s
    readyAt := s.now + 1020 * cyc
    cycles := cyclesUsed x
    status := if late then 2 else r.status
    reason := if late then 0x17 else r.reason }
  dropRunning { s with
    jrn := { s.jrn with path := mapLast f s.jrn.path }
    mesh := mapLast (fun x => { x with due := s.now + 576 * cyc }) s.mesh } c

/-- Cycles a core took from one state to the next. -/
def elapsed (s s' : State) (c : Nat) : Nat := ((getCore s' c).freeAt - (getCore s c).freeAt) / cyc

/-- R68, R69: an end that would retire after the abort window does not happen: the STOP comes first. -/
def endRun (s : State) (c : Nat) (o : Out) : Out :=
  match o, (getCore s c).running with
  | .next s', some n =>
    if (getCtx s' n).st = .ending ∧ (getCtx s n).st = .running then
      if (getCtx s n).base.ovr ∧ (getCtx s n).win < elapsed s s' c then .next s
      else .next (finishEnd s' c n)
    else .next s'
  | o, _ => o

def execTcommit (c : Nat) (ra rb : Reg) (s : State) : Out :=
  endRun s c (runCore s (sharedRun (.tcommit c ra rb) c 3 (sharedUnd s c [(ra, 1), (rb, 2)]) [ra.val, rb.val])
    (endBody c ra rb none))

def execTabort (c : Nat) (rd ra rb : Reg) (s : State) : Out :=
  endRun s c (runCore s (sharedRun (.tabort c rd ra rb) c 3 (sharedUnd s c [(rd, 1), (ra, 1), (rb, 2)])
    [rd.val, ra.val, rb.val]) (endBody c ra rb (some rd)))

-- TYIELD

/-- R330: the turn ends when another READY context of the lane has a run deadline at or before its own. -/
def yields (s : State) (c n : Nat) : Option Nat :=
  match nextReady s c (some n) with
  | some m => if (getCtx s m).dl ≤ (getCtx s n).dl then some m else none
  | none => none

def execTyield (c : Nat) (s : State) : Out :=
  match runCore s (sharedRun (.tyield c) c 1 none []) (fun s => .ok (Done.of s 4)) with
  | .next s' =>
    (match (getCore s' c).running with
     | some n =>
       if (getCore s' c).freeAt ≠ (getCore s c).freeAt ∧ (getCore s' c).exc = none then
         match yields s' c n with
         | some m => .next (switchIn (switchOut s' c (boundary (getCore s' c))) c m (holdsBanks (getCtx s' n)))
         | none => .next s'
       else .next s'
     | none => .next s')
  | o => o

-- gates

/-- R336: the four words of a descriptor. -/
structure GateDesc where
  w0 : Word
  w1 : Word
  w2 : Word
  w3 : Word
  deriving DecidableEq, Repr

def gdTpriv (d : GateDesc) : Nat := fld d.w0 62 61
def gdNarg (d : GateDesc) : Nat := fld d.w0 51 48
def gdEntry (d : GateDesc) : Nat := fld d.w0 39 0

/-- R336: the tag mask of argument k. -/
def gdMask (d : GateDesc) (k : Nat) : Nat :=
  let w := if k < 4 then d.w1 else d.w2
  fld w (63 - 16 * (k % 4)) (48 - 16 * (k % 4))

/-- R336: V is 1 and no field or encoding is reserved. -/
def gdOk (d : GateDesc) : Bool :=
  bit d.w0 63 && gdTpriv d ≠ 0 && fld d.w0 57 56 = 0 && gdNarg d ≤ 8 && d.w3 = 0 &&
  (List.range 8).all fun k => if k < gdNarg d then gdMask d k / 4096 % 8 = 0 else gdMask d k = 0

/-- Argument register k of a gate. -/
def argReg (k : Nat) : Reg := ⟨(8 + k) % 32, Nat.mod_lt _ (by decide)⟩

/-- R337 check 3. -/
def gateReach (s : State) (c a : Nat) : Bool :=
  match locOf s.part (cellOf c) a with
  | .cell n off =>
    a % 32 = 0 && cellOf c = some n && (List.range 32).all (fun i => gateRegion s n (off + i)) &&
    (rangeFail s (whoOf s c) .read a 32).isNone
  | _ => false

/-- R337: checks 7 and 8 over the arguments from `k`. -/
def argCheck (s : State) (c : Nat) (d : GateDesc) (poison : Bool) : Nat → Nat → Except Stop Unit
  | 0, _ => .ok ()
  | n + 1, k => do
    let w ← rdG s c (argReg k)
    let admits := gdMask d k / 2 ^ tagClass w % 2 = 1
    if poison && isPoison w && !admits then poisonUse w
    else if !poison && !admits then raise 0x15 (0x10 + k) w.tag.toNat
    else argCheck s c d poison n (k + 1)

/-- R338 step 3: the caller's G30 passes to the gate level. -/
def gatePasses (d : GateDesc) (b : Bank) : Bool :=
  !(gdTpriv d = 1 && decide (2 ≤ b.priv)) && !decide (b.priv < gdTpriv d)

/-- R338: the new gate level. -/
def gateBank (s : State) (c : Nat) (x : Ctx) (d : GateDesc) : Bank :=
  let b := curBank s c
  let g0 : Vector TWord 32 := Vector.replicate 32 nil
  let g1 := (List.range (gdNarg d)).foldl (fun (g : Vector TWord 32) k => g.set (argReg k) b.g[argReg k]) g0
  let g30 := if gdTpriv d = 1 && 2 ≤ b.priv then x.ssp else if b.priv < gdTpriv d then nil else b.g[30]
  let ps := fld d.w0 55 52 * 2 ^ 20 + gdTpriv d * 2 ^ 18 + b2n (bit d.w0 58) * 2 ^ 17 + b2n b.ovr * 2 ^ 16
  { Bank.fresh with
    g := g1.set 30 g30
    xb := BitVec.ofNat 24 (gdEntry d / 65536)
    ps := BitVec.ofNat 64 ps
    ia := BitVec.ofNat 40 (gdEntry d) }

/-- R337, R338. -/
def gateBody (c : Nat) (ra : Reg) (s : State) : Except Stop Done := do
  let w ← rdG s c ra
  if isPoison w then poisonUse w
  else if tagClass w ≠ 10 then tagMismatch 1 w
  else
    let a := fld w.pay 39 0
    baseBarrier s c (some w)
    if !gateReach s c a then raise 0x15 1 0
    else
      let p := fun i => (seeWord s c (a + 8 * i)).pay
      let d : GateDesc := ⟨p 0, p 1, p 2, p 3⟩
      let b := curBank s c
      if !gdOk d then raise 0x15 2 0
      else if fld d.w0 60 59 < b.priv then raise 0x15 3 0
      else match (getCore s c).running with
        | none => raise 0x15 1 0
        | some n =>
          let x := getCtx s n
          if s.adm.gdepth ≤ x.depth then raise 0x16 s.adm.gdepth 0
          else
            argCheck s c d true (gdNarg d) 0
            argCheck s c d false (gdNarg d) 0
            if gdTpriv d = 1 ∧ 2 ≤ b.priv ∧ !stackOk s c x x.ssp then raise 0x1A 0 0
            else if gatePasses d b && bit b.pend 30 then .error .wait
            else
              let lv : GateLevel :=
                ⟨gateBank s c x d, b.ia + 3, b.smode, b.priv, BitVec.ofNat 8 (fld d.w0 47 40), BitVec.ofNat 40 a⟩
              .ok { Done.of (setCtx s n { x with gates := lv :: x.gates }) (if x.gates = [] then 24 else 204) with
                next := some (BitVec.ofNat 40 (gdEntry d)) }

/-- R337, R338: the registers that a GATE reads beside ra: its arguments, and G30 where it passes on. -/
def gateSrcs (s : State) (c : Nat) (ra : Reg) : List Nat :=
  let w := peekG s c ra
  let a := fld w.pay 39 0
  let p := fun i => (seeWord s c (a + 8 * i)).pay
  let d : GateDesc := ⟨p 0, p 1, p 2, p 3⟩
  if tagClass w = 10 && gateReach s c a && gdOk d then
    (List.range (gdNarg d)).map (fun k => (argReg k).val) ++ (if gatePasses d (curBank s c) then [30] else [])
  else []

def execGate (c : Nat) (ra : Reg) (s : State) : Out :=
  runCore s (sharedRun (.gate c ra) c 3 (sharedUnd s c [(ra, 1)]) (ra.val :: gateSrcs s c ra)) (gateBody c ra)

/-- The registers that RMASK names. -/
def maskRegs (lv : GateLevel) : List Reg := ((List.range 8).filter fun k => bit lv.rmask k).map argReg

/-- Far loads of a level that is left deliver nowhere. -/
def forgetLevel (q : List FarAcc) (n l : Nat) : List FarAcc :=
  q.map fun f =>
    match f.kind with
    | .loadG m j k a sz w => { f with kind := .loadG m j (if m = n ∧ j = l then none else k) a sz w }
    | _ => f

/-- A core's far loads no longer reach level `l` of context `n`, nor the registers `rs` of level `dst`,
which hold newer values. -/
def leaveLevel (s : State) (c n l dst : Nat) (rs : List Reg) : State :=
  let k := getCore s c
  setCore s c { k with far := rs.foldl (fun q r => dropFarG q n dst r) (forgetLevel k.far n l) }

/-- R339: return from a gate level. -/
def gateReturn (s : State) (c n : Nat) (x : Ctx) (lv : GateLevel) (rest : List GateLevel) : Done :=
  let x1 := { x with gates := rest, late := x.late.filter fun e => e.1 ≠ x.level }
  let l := x1.level
  let b := x1.bankOf l
  let rs := maskRegs lv
  let g := rs.foldl (fun (g : Vector TWord 32) (r : Reg) => g.set r lv.bank.g[r]) b.g
  let pd := rs.foldl (fun (p : BitVec 32) (r : Reg) => setFld p r.val r.val 0) b.pend
  let ps := setFld (setFld b.ps 17 17 (b2n lv.cSmode)) 19 18 lv.cPriv
  let b := ({ b with g := g, fl := b.fl ||| lv.bank.fl, ps := ps, pend := pd } : Bank).setCc lv.bank.cc
  let cnt := if l = 1 ∨ rest = [] then 20 else 200
  { Done.of (setCtx (leaveLevel s c n x.level l rs) n (x1.setBankOf l b)) cnt with next := some lv.link }

/-- R349: a word of a special register in the frame is acceptable. -/
def frameSpr (w : TWord) (bits : Nat) : Bool := isInt w && w.pay.toNat < 2 ^ bits

/-- R349: return from the exception level. Its reads of the frame pass the checks of an operand access (R356). -/
def excReturn (s : State) (c n : Nat) (x : Ctx) (e : ExcLevel) : Except Stop Done := do
  checkBytes s c .read 0 e.frame.toNat 384
  let f := fun i => seeWord s c (e.frame.toNat + 8 * i)
  if tagClass (f 4) ≠ 10 ∨ !frameSpr (f 5) 64 ∨ !frameSpr (f 6) 24 ∨ !frameSpr (f 7) 10 ∨ !frameSpr (f 8) 12 then
    raise 0x15 0 0
  else
    let x1 := { x with exc := none, late := x.late.filter fun e => e.1 ≠ 1 }
    let b := x1.bankOf x1.level
    let p := (f 3).pay
    let ps := setFld (setFld (setFld b.ps 15 14 (fld p 15 14)) 13 12 (fld p 13 12)) 17 17 (fld p 17 17)
    let b := { b with
      g := Vector.ofFn fun i : Fin 32 => f (16 + i.val)
      ct := (f 5).pay
      xb := (f 6).pay.setWidth 24
      fl := (f 7).pay
      te := (f 8).pay
      ps := ps }
    .ok { Done.of (setCtx (leaveLevel s c n 1 0 []) n (x1.setBankOf x1.level b)) 30 with next := some (BitVec.ofNat 40 (fld (f 4).pay 39 0)) }

def gretBody (c : Nat) (s : State) : Except Stop Done :=
  match (getCore s c).running with
  | none => raise 0x15 8 0
  | some n =>
    let x := getCtx s n
    match x.level, x.exc, x.gates with
    | 1, some e, _ => excReturn s c n x e
    | _, _, lv :: rest =>
      if (maskRegs lv).any fun r => bit lv.bank.pend r.val then .error .wait
      else .ok (gateReturn s c n x lv rest)
    | _, _, [] => raise 0x15 8 0

/-- R349, R350: after an exception return, PS.UIP is that of the frame; a pending BUDGET_OVERRUN enters
the handler at once. -/
def afterReturn (s s' : State) (c : Nat) : State :=
  match (getCore s c).running with
  | none => s'
  | some n =>
    match (getCtx s n).exc, (getCtx s' n).exc with
    | some e, none =>
      let p := (seeWord (drainAll s c) c (e.frame.toNat + 24)).pay
      let s' := setBank s' c ((curBank s' c).setUip (bit p 12))
      if (getCtx s n).ovrp then
        enterExc (setCtx s' n { getCtx s' n with ovrp := false }) c 0 (overrunPend s' c n)
      else s'
    | _, _ => s'

/-- R339: the registers that GRET returns. -/
def gretSrcs (s : State) (c : Nat) : List Nat :=
  match (getCore s c).running with
  | none => []
  | some n =>
    match (getCtx s n).level, (getCtx s n).gates with
    | 1, _ => []
    | _, lv :: _ => (maskRegs lv).map (·.val)
    | _, [] => []

def execGret (c : Nat) (s : State) : Out :=
  match runCore s (sharedRun (.gret c) c 1 none (gretSrcs s c)) (gretBody c) with
  | .next s' => .next (afterReturn s s' c)
  | o => o

end Sys2Proof.Machine
end

