-- ==== Sys2Proof/Machine/Commit.lean ====
section
/-! DEFINITION. From a record ready at M0 to the reply and the drain (R59, R76 to R85, R405, R407, R413,
R422, R424), pool gate and selector writes (R49, R50, R54, R55). -/

namespace Sys2Proof.Machine

-- SEQ and chain of each stream

def nextSeq (j : Journal) (st : Nat) : Nat := if st = 0 then j.next0 else j.next1
def lastH (j : Journal) (st : Nat) : List Byte := if st = 0 then j.h0 else j.h1
def setSeq (j : Journal) (st q : Nat) (h : List Byte) : Journal :=
  if st = 0 then { j with next0 := q, h0 := h } else { j with next1 := q, h1 := h }
def reclaimedOf (j : Journal) (st : Nat) : Nat := if st = 0 then j.reclaimed0 else j.reclaimed1
def setReclaimed (j : Journal) (st q : Nat) : Journal :=
  if st = 0 then { j with reclaimed0 := q } else { j with reclaimed1 := q }

/-- The first of the records for which `f` holds, in the order of `key`. -/
def leastRec (rs : List Rec) (f : Rec → Bool) (key : Rec → Nat) : Option Rec :=
  rs.foldl (fun m r =>
    if f r then (match m with | some b => if key r < key b then some r else m | none => some r) else m) none

/-- The first record equal to `r` is replaced. -/
def putRec (rs : List Rec) (r r' : Rec) : List Rec :=
  match rs with
  | [] => []
  | q :: t => if q = r then r' :: t else q :: putRec t r r'

def setRing (s : State) (r r' : Rec) : State := { s with jrn := { s.jrn with ring := putRec s.jrn.ring r r' } }

/-- R78, R328: JOURNAL_RECORD_READY; the record is before the chain engine, and its context is FREE. -/
def execJournalRecordReady (s : State) : Out :=
  match leastRec s.jrn.path (fun r => !r.ready) (·.readyAt) with
  | some r =>
    if alive s then
      let s1 := passTo s r.readyAt
      let s1 := { s1 with jrn := { s1.jrn with path := putRec s1.jrn.path r { r with ready := true } } }
      .next (match r.tx with
        | some t => if (getCtx s1 t.record).st = .ending then freeCtx s1 t.record else s1
        | none => s1)
    else .next s
  | none => .next s

/-- R422, R427, R436: records go to the partner: when PAIRED, and to a partner that rejoins. -/
def pairSends (s : State) : Bool :=
  (pst s = .paired && !s.pair.broken) || (pst s = .solo && s.pair.rejoin)

/-- R422: a record leaves M0 as an MRC, with FLOOR of its duplicate row in word 1 (R421). -/
def sendMrc (s : State) (r : Rec) : State :=
  sendOn s 8 0 (16 + (recBytes r).length) none (.mrc r.stream r.seq r.floor (recBytes r))

/-- R74: a record takes the next place of the ring, at a 64-byte boundary (log entry 101). -/
def intoRing (s : State) (r : Rec) : State :=
  { s with jrn := { s.jrn with
    ring := s.jrn.ring ++ [{ r with place := s.jrn.tail }]
    tail := (s.jrn.tail + recPad r.body.length) % max 64 (ringSize s) } }

/-- R74, R79: a record's bytes reach the ring in DRAM; a record at the end of the ring goes on at its base. -/
def writeRing (s : State) (r : Rec) : State :=
  let g := jsealRange s.prot.jseal
  let bs := recBytes r
  let n := g.2 - r.place
  { s with mem := blit (blit s.mem (g.1 + r.place) 0 (bs.take n)) g.1 0 (bs.drop n) }

/-- R77: a record takes the next SEQ of its stream and is chained; its ring write is issued. -/
def chainRec (s : State) (r : Rec) : State × Rec :=
  let prev := lastH s.jrn r.stream
  let r := { r with seq := nextSeq s.jrn r.stream, prev := prev, ringAt := s.now, place := s.jrn.tail }
  let r := { r with h := chainOf prev r, sent := pairSends s, sentAt := s.now }
  let s := intoRing s r
  ({ s with jrn := setSeq s.jrn r.stream (r.seq + 1) r.h }, r)

/-- R59: CHAIN_TAKE of the ready record with the earliest slot. -/
def execChainTake (s : State) : Out :=
  match leastRec s.jrn.path (·.ready) (·.slot) with
  | some r =>
    if alive s then
      let c := chainRec { s with jrn := { s.jrn with path := s.jrn.path.erase r } } r
      let s1 := if r.tx.isSome then bump c.1 0x4000 (6 + r.status) else c.1
      let s1 := if pairSends s then sendMrc s1 c.2 else s1
      .next (fillUpdate s1)
    else .next s
  | none => .next s

/-- R541: what an answer waits for: the record of move `k`. -/
def moveHold (k : Nat) : Nat := 0x100 * k + 0x14

/-- R541, R460: answers that wait for a record are due. -/
def freeHolds (s : State) (kind : Nat) : State :=
  let s1 := (List.range 8).foldl (fun s p =>
    let x := getPort s p
    setPort s p { x with answers := x.answers.map fun a => if a.hold = kind then { a with hold := 0 } else a }) s
  { s1 with mgmt := { s1.mgmt with
    sdoAns := s1.mgmt.sdoAns.map fun a => if a.hold = kind then { a with hold := 0 } else a } }

/-- R460: a time step takes effect once its record is written; a slew goes on with what is left (R469). One that an MRC
brought is a mirror copy only (R422). -/
def stepTime (s : State) (r : Rec) : State :=
  if r.kind = 0x13 && s.time.running && r.stream = ownStream s && !r.ringDone && !r.mirrored then
    let n := field r.body 8 8
    freeHolds { s with time := { s.time with
      base := ledgerNow s + n, since := s.now, left := slewLeft s, stepped := s.time.stepped + n } } 0x13
  else s

/-- R488: the record of the device's entry into Retired. -/
def lifeEnd (r : Rec) : Bool := r.kind = 0x15 && field r.body 8 8 = 3

/-- R74, R79, R488: RING_WRITE_COMPLETE of the oldest record whose write is issued. -/
def execRingWriteComplete (s : State) : Out :=
  match leastRec s.jrn.ring (fun r => !r.ringDone) (·.ringAt) with
  | some r =>
    if alive s then
      let s1 := setRing (writeRing (stepTime s r) r) r { r with ringDone := true, ringAt := s.now }
      .next (if s.boot.retiring && lifeEnd r then silence s1 else s1)
    else .next s
  | none => .next s

/-- R79, R420, R424, R430: the release condition of a record; in SOLO from step 4 of R432 on. -/
def releasable (s : State) (r : Rec) : Bool :=
  r.ringDone &&
  (match pst s with
   | .alone => true
   | .solo => soloDone s
   | .paired | .claim => r.acked
   | _ => false)

/-- R437: the last record of its stream, which a rejoin sends though it has been reclaimed (log entry 100). -/
def isLast (s : State) (r : Rec) : Bool := r.seq + 1 = nextSeq s.jrn r.stream

/-- R85: the records that stay listed: unreclaimed, awaiting their reply, or the last of their stream. -/
def keptRec (s : State) (r : Rec) : Bool :=
  unreclaimed s r || (r.tx.isSome && !r.replied && r.stream = ownStream s) || isLast s r

-- replies

/-- R78, R427: when the reply would be due had its acknowledgement come in time; later than that it is late (R405). -/
def trpBound (r : Rec) : Nat := max r.ringAt (if r.sent then min r.ackAt (r.sentAt + 1340000) else r.ackAt) + 200000

/-- R78: when a record's reply is due: 200 ns after its acknowledgement, or after the local write when that is
later (log entry 32). -/
def trpDue (r : Rec) : Nat := max r.ringAt r.ackAt + 200000

/-- R42: the transaction's result is settled: its slot is done, and the duplicates linked to it are
due with its reply. -/
def settle (s : State) (r : Rec) : State :=
  let s := closeSlot s r.stream r.orig r.serial r.status r.seq (excerptOf r)
  let res := (r.status, r.seq, excerptOf r)
  { s with adm := { s.adm with
    owed := s.adm.owed.map fun d =>
      if d.orig = r.orig ∧ d.serial = r.serial ∧ d.res = none then { d with res := some res, dueAt := max d.dueAt (max (trpDue r) s.now) } else d
    reqs := s.adm.reqs.map fun q =>
      if q.dec = .dupFly ∧ q.f.orig = r.orig ∧ q.f.serial.toNat = r.serial ∧ q.st = .decided then
        { q with dec := .dupDone r.status r.seq (excerptOf r) } else q } }

/-- R405, R435, R445: class A alert of a commit whose last bit left after its bound. -/
def lateCommit (s : State) (p : Nat) (m : TrpMsg) (cls : Nat) : State :=
  let last := ledgerAt s (s.now + wirePs (getPort s p) (48 + m.items.length))
  if m.stamp + classBound cls < last then
    alertFault (bump { s with free := s.free + 1 } 0x4000 0x0A) 0x19 5 p (Config.noticeDetail s.free)
  else s

/-- R401: the reply of a record. -/
def trpOf (r : Rec) (t : TxRef) : TrpMsg where
  orig := t.orig
  serial := t.serial
  status := r.status
  ostatus := 0
  reason := r.reason
  stamp := t.stamp
  seq := r.seq
  excerpt := excerptOf r
  items := replyItems r.body (r.body.length / 8 + 1) 0

/-- R80: a DUPLICATE reply. -/
def dupMsg (d : DupOwed) (res : Nat × Nat × Nat) : TrpMsg where
  orig := d.orig
  serial := d.serial
  status := 3
  ostatus := res.1
  reason := 0
  stamp := d.stamp
  seq := res.2.1
  excerpt := res.2.2
  items := []

/-- The ACK of a duplicate has left (R42). -/
def ackedDup (s : State) (d : DupOwed) : Bool :=
  !(s.adm.reqs.any fun r => r.port = d.port && r.f.orig = d.orig && r.f.serial.toNat = d.serial && r.stamp = d.stamp)

/-- The record whose reply is due first on port `p`. -/
def nextTrp (s : State) (p : Nat) : Option Rec :=
  leastRec s.jrn.ring (fun r => !r.replied && releasable s r && r.stream = ownStream s &&
    (match r.tx with | some t => (replyTo s t.session t.port).num = p | none => false)) trpDue

/-- The DUPLICATE reply due first on port `p`. -/
def nextDup (s : State) (p : Nat) : Option DupOwed :=
  s.adm.owed.foldl (fun m d =>
    if d.res.isSome && ackedDup s d && (replyTo s d.session d.port).num = p then
      (match m with | some b => if d.dueAt < b.dueAt then some d else m | none => some d)
    else m) none

/-- R405: a TRP leaves when it is due and the TRP before it on its port has ended. -/
def sendTrp (s : State) (p : Nat) (m : TrpMsg) (due : Nat) : State :=
  let s1 := passTo (passTo s due) (getPort s p).trpEnd
  let k := freeStrm s1 (getPort s1 p) 0
  let s1 := sendOn s1 p 0 (40 + m.items.length) (some (.trp p m)) (.trp p m)
  let x := getPort s1 p
  setPort s1 p { x with trpEnd := s1.now + wirePs x (48 + m.items.length), trpStrm := k }

/-- A reply goes where its session has it go; it leaves at `due`, and is late after `bound` (R405). -/
def deliverReply (s : State) (session : Nat) (dst : ReplyTo) (m : TrpMsg) (due bound : Nat) : State :=
  match dst with
  | .port p => lateReply (sendTrp s p m due) p bound
  | .store p => storeReply (passTo s due) session (.trp p m)
  | .lost _ => passTo s due

/-- R79, R80: the reply of a record. -/
def replyRec (s : State) (r : Rec) (t : TxRef) : State :=
  let m := trpOf r t
  let dst := replyTo s t.session t.port
  let s1 := settle s r
  let blocked := match dst with | .port p => !canSend s p 0 (40 + m.items.length) | _ => false
  if blocked then s1
  else
    let s1 := deliverReply s1 t.session dst m (trpDue r) (trpBound r)
    let s1 := match dst with | .port p | .store p => lateCommit s1 p m (r.prog / 16384) | .lost _ => s1
    let s1 := setRing s1 r { r with replied := true }
    { s1 with jrn := { s1.jrn with ring := s1.jrn.ring.filter (keptRec s1) } }

/-- R42: a DUPLICATE reply. -/
def replyDup (s : State) (d : DupOwed) (res : Nat × Nat × Nat) : State :=
  let m := dupMsg d res
  let dst := replyTo s d.session d.port
  let blocked := match dst with | .port p => !canSend s p 0 40 | _ => false
  if blocked then s
  else
    let s1 := { s with adm := { s.adm with owed := s.adm.owed.erase d } }
    bump (deliverReply s1 d.session dst m d.dueAt d.dueAt) 0x4000 9

/-- R413: the first stored reply leaves. -/
def replyStored (s : State) (p : Nat) (x : Session) (m : Emit) : State :=
  if canSend s p 0 (replyBytes m) then
    let s1 := putSession s { x with store := x.store.drop 1 }
    match m with
    | .trp _ t => sendTrp s1 p t s1.now
    | _ => sendOn s1 p 0 (replyBytes m) (some (onPort p m)) (onPort p m)
  else s

/-- R79, R405, R413: TRP; stored replies first, then the reply due first on a port. -/
def execTrp (p : Nat) (s : State) : Out :=
  if !alive s || pst s = .fenced then .next s
  else match storeOf s p with
  | some (x, m) => .next (replyStored s p x m)
  | none =>
    let dup := fun (d : DupOwed) => (match d.res with | some x => replyDup s d x | none => s : State)
    match nextTrp s p, nextDup s p with
    | some r, some d =>
      if d.dueAt < trpDue r then .next (dup d)
      else (match r.tx with | some t => .next (replyRec s r t) | none => .next s)
    | some r, none => (match r.tx with | some t => .next (replyRec s r t) | none => .next s)
    | none, some d => .next (dup d)
    | none, none => .next s

-- system records

/-- R422, R436: pool gate and selector writes are allowed in the pair state; in a rejoin not before everything of its
steps 1 and 2 has left. -/
def writesAllowed (s : State) : Bool :=
  match pst s with
  | .alone | .paired => true
  | .solo => !s.pair.rejoin || s.pair.sending = 0
  | _ => false

/-- The device owns a partition (R422). -/
def primaryFor (s : State) (part : Nat) : Bool :=
  pst s = .alone || b2n (bit s.pair.ownmap part) = ownStream s

/-- A pool's entry with the changes that await their W. -/
def poolAhead (s : State) (pool : Nat) : BitVec 256 :=
  s.adm.changes.foldl (fun e c => if c.pool = some pool then c.entry else e) (poolOf s pool)

/-- R47: the written entry has no reserved bit or encoding. -/
def pgValid (v : BitVec 256) : Bool := pgState v < 2 && fld v 246 192 = 0

/-- R49: what a change needs of `w`, for a steward's write. By log entry 64 one write may move an IDLE entry to LIVE
and change its PART as well. -/
def pgAllowed (s : State) (pool w : Nat) (e v : BitVec 256) : Bool :=
  let times := pgOpen e = pgOpen v && pgClose e = pgClose v
  if pgState e = 0 then
    if pgState v = 1 then w + 2000 ≤ pgOpen v && pgOpen v < pgClose v
    else pgPart e ≠ pgPart v && times
  else if pgPart e ≠ pgPart v then false
  else if pgState v = 0 then
    times && pgClose e ≤ w && !((openTx s).any fun t => t.2 = pool)
  else pgOpen e = pgOpen v && pgClose v < pgClose e && w + 2000 < pgClose e && w + 2000 ≤ pgClose v

/-- R49, R539: CLOSE moved later, and reopening. -/
def pgLater (w : Nat) (e v : BitVec 256) : Bool :=
  pgState e = 1 && pgClose e < pgClose v && w < pgClose e
def pgReopen (w : Nat) (e v : BitVec 256) : Bool :=
  pgState e = 1 && pgClose e ≤ w && w + 2000 ≤ pgOpen v && pgOpen v < pgClose v

/-- The entry that takes effect: REOPENED as `re` says, CHANGED at W. -/
def pgNew (v : BitVec 256) (re : Bool) (w : Nat) : BitVec 256 :=
  setFld (setFld (setFld v 247 247 (b2n re)) 246 192 0) 63 0 w

/-- R40, R77: a table change can be journaled: the device is ready and its stream has been opened. -/
def canJournal (s : State) : Bool := deviceReady s && s.jrn.opened

/-- R50: a gate change is journaled, and waits for its W. Answers the SDO abort code, or W. -/
def gateChange (s : State) (pool : Nat) (ok : Nat → Bool) (v : Nat → BitVec 256) : Except Nat (State × Nat) :=
  let w := slotW s (claimSlot s)
  match sysRecord s 0x11 (fun r => { r with pool := pool, part := pgPart (v w) })
      (fun w => beBytes 8 pool ++ beBytes 8 w ++ beBytes 32 (v w).toNat) with
  | none => .error 0x08000020
  | some (s1, w1) =>
    if writesAllowed s && canJournal s && ok w then
      .ok ({ s1 with adm := { s1.adm with changes := s1.adm.changes ++ [⟨some pool, none, v w1, [], w1⟩] } }, w1)
    else .error 0x08000022

/-- R47, R49: a write of a whole entry; REOPENED stands until the pool leaves IDLE. -/
def gateWrite (s : State) (pool : Nat) (v : BitVec 256) : Except Nat (State × Nat) :=
  let e := poolAhead s pool
  if !pgValid v then .error 0x06090030
  else gateChange s pool
    (fun w => primaryFor s (pgPart e) && pgAllowed s pool w e v)
    (pgNew v (bit e 247 && !(pgState e = 0 && pgState v = 1)))

/-- R13, R54: what a refused write of a table entry leaves: a refusal of the value is counted; one of R49, R84 or
R422 changes nothing. -/
def tableRefused (s : State) (abort : Nat) : State := if abort = 0x06090030 then refuse s else s

/-- R49: POOL_GATE_WRITE. -/
def execPoolGateWrite (pool : BitVec 16) (entry : BitVec 256) (s : State) : Out :=
  if alive s then
    match gateWrite s pool.toNat entry with
    | .ok (s1, _) => .next s1
    | .error a => .next (tableRefused s a)
  else .next s

/-- A change takes effect. -/
def applyChange (s : State) (c : Change) : State :=
  let a := { s.adm with changes := s.adm.changes.erase c }
  match c.pool, c.prog with
  | some p, _ => { s with adm := { a with pools := tput 0 a.pools p c.entry } }
  | none, some n => { s with adm := { a with sels := tput selReset a.sels n c.words } }
  | none, none => { s with adm := a }

/-- R49: POOL_GATE_CHANGE, at W of the change due first. -/
def execPoolGateChange (s : State) : Out :=
  match s.adm.changes.foldl (fun (m : Option Change) c =>
      match m with | some b => if c.w < b.w then some c else m | none => some c) none with
  | some c => if alive s then .next (applyChange (passTo s (atLedger s c.w)) c) else .next s
  | none => .next s

/-- R54: reserved bits and encodings of a selector entry. -/
def selOk (v : Variant) (ws : List Word) : Bool :=
  let w0 := selWord ws 0
  let w1 := selWord ws 1
  ws.length = 16 && 2 ≤ fld w0 59 58 && selNstg ws ≤ 12 && fld w0 47 40 = 0 && fld w1 31 0 = 0 &&
  selWord ws 14 = 0 && selWord ws 15 = 0 &&
  (selCopy ws).descs.all (fun d =>
    fld d 31 24 = 0 && 1 ≤ sdKbits d && sdKbits d ≤ 24 && fld d 8 0 = 0) &&
  !(bit w0 57 && !bit w0 56 && v = .e) &&
  3200 + 640 * selNstg ws + fld w1 63 32 + 9024 ≤ 2 * (classBound (fld w0 62 61) - 3000)

/-- R54: a selector change is journaled, and waits for its W; the class bits of the record's PROG are 0 (log entry
22). -/
def selectorWrite (s : State) (n : Nat) (ws : List Word) : Except Nat (State × Nat) :=
  if !selOk s.part.variant ws then .error 0x06090030
  else match sysRecord s 0x12 (fun r => { r with prog := n })
      (fun w => beBytes 8 n ++ beBytes 8 w ++ ws.flatMap wordBytes) with
    | none => .error 0x08000020
    | some (s1, w1) =>
      if writesAllowed s && canJournal s then
        .ok ({ s1 with adm := { s1.adm with changes := s1.adm.changes ++ [⟨none, some n, 0, ws, w1⟩] } }, w1)
      else .error 0x08000022

/-- R54: SELECTOR_WRITE. -/
def execSelectorWrite (prog : BitVec 12) (words : List Word) (s : State) : Out :=
  if alive s then
    match selectorWrite s prog.toNat words with
    | .ok (s1, _) => .next s1
    | .error a => .next (tableRefused s a)
  else .next s

-- drain and reclaim

/-- R85: the N-th highest JDA of a stream. -/
def drainMark (s : State) (st : Nat) : Nat :=
  let vs := (s.jrn.jdas.filter fun e => e.2.1 = st).map (·.2.2)
  let rec go (vs : List Nat) : Nat → Nat
    | 0 => 0
    | n + 1 =>
      let m := vs.foldl max 0
      if n = 0 then m else go (vs.erase m) n
  go vs s.adm.drainHosts

/-- The highest SEQ of a stream in the ring. -/
def ringTop (s : State) (st : Nat) : Nat := ((s.jrn.ring.filter fun r => r.stream = st).map (·.seq)).foldl max 0

/-- R85: how far a stream may be reclaimed in the pair state. -/
def reclaimLimit (s : State) (st : Nat) : Nat :=
  match pst s with
  | .alone | .solo => drainMark s st
  | .paired => if st = ownStream s then min (drainMark s st) s.jrn.partnerMrcl else s.jrn.partnerRcl
  | _ => if st = ownStream s then drainMark s st else s.jrn.partnerRcl

/-- R85: RECORD_RECLAIM, each stream in SEQ order; a record that waited for room is written (R84, R491). -/
def reclaim (s : State) : State :=
  let up := fun (s : State) st =>
    { s with jrn := setReclaimed s.jrn st (max (reclaimedOf s.jrn st) (min (reclaimLimit s st) (ringTop s st))) }
  let s := up (up s 0) 1
  let s := fillUpdate { s with jrn := { s.jrn with ring := s.jrn.ring.filter (keptRec s) } }
  owedRecords s

def sendPtr (x : Session) (st : Nat) : Nat := if st = 0 then x.send0 else x.send1
def setPtr (x : Session) (st q : Nat) : Session := if st = 0 then { x with send0 := q } else { x with send1 := q }
def jdaOf (x : Session) (st : Nat) : Nat := if st = 0 then x.jda0 else x.jda1
def setJda (x : Session) (st q : Nat) : Session := if st = 0 then { x with jda0 := q } else { x with jda1 := q }

def topOf (x : Session) (st : Nat) : Nat := if st = 0 then x.top0 else x.top1

/-- R407: record `q` of a stream has been sent to the session. -/
def sentRec (x : Session) (st q : Nat) : Session :=
  if st = 0 then { x with send0 := q + 1, top0 := max x.top0 q } else { x with send1 := q + 1, top1 := max x.top1 q }

/-- The ACTIVE session of a port. -/
def activeSession (s : State) (p : Nat) : Option Session :=
  if portActive s p then s.sessions.find? fun x => x.id = (getPort s p).session else none

/-- R407: the pointer of a session, never below the oldest unreclaimed record. -/
def drainAt (s : State) (x : Session) (st : Nat) : Nat := max (sendPtr x st) (reclaimedOf s.jrn st + 1)

/-- R407, R432: the streams a device drains, and which comes first: the partner's, up to the takeover
record, after a takeover. -/
def drainsStream (s : State) (x : Session) (st : Nat) : Bool :=
  if st = ownStream s then
    (match s.pair.takeSeq, pst s with
     | some q, .solo => q < drainAt s x (1 - st)
     | _, _ => true)
  else pst s = .solo && s.pair.takeSeq.isSome

/-- R407, R424: JRD; the next record of a stream goes to a drain session. -/
def execJrd (p stream : Nat) (s : State) : Out :=
  match activeSession s p with
  | none => .next s
  | some x =>
    if !alive s || pst s = .fenced || x.store ≠ [] || !bit (getPort s p).pcfg 38 || 2 ≤ stream || !drainsStream s x stream then .next s
    else
      let q := drainAt s x stream
      match s.jrn.ring.find? fun r => r.stream = stream && r.seq = q with
      | none => .next s
      | some r =>
        let held := stream = ownStream s && (match s.jrn.halted with | some h => decide (h ≤ q) | none => false)
        let ok := if stream = ownStream s then releasable s r else r.ringDone
        let bs := recBytes r
        if ok && !held && canSend s p 1 (16 + bs.length) then
          .next (sendOn (putSession s (sentRec x stream q)) p 1 (16 + bs.length) none (.jrd p stream q bs))
        else .next s

/-- R402, R407: a drain message that is not well formed, or comes without an ACTIVE session. -/
def drainMsg (s : State) (p : Nat) (stream : Byte) (good : Bool) (f : Session → State) : Out :=
  if romHears s p then .next (malformed s p)
  else if !(alive s && portUp s p) then .next s
  else match activeSession s p with
    | some x => if good && stream.toNat < 2 then .next (f x) else .next (malformed s p)
    | none => .next (malformed s p)

/-- R407, R85: JDA. -/
def execJda (p : Nat) (seq : Word) (stream : Byte) (good : Bool) (s : State) : Out :=
  drainMsg s p stream good fun x =>
    let st := stream.toNat
    let q := seq.toNat
    if q ≤ jdaOf x st || topOf x st < q then bump s 0x4008 (p + 1)
    else
      let s1 := putSession s (setJda x st q)
      reclaim { s1 with jrn := { s1.jrn with
        jdas := (x.id, st, q) :: s1.jrn.jdas.filter fun e => !(e.1 = x.id && e.2.1 = st) } }

/-- R407: JDR. -/
def execJdr (p : Nat) (seq : Word) (stream : Byte) (good : Bool) (s : State) : Out :=
  drainMsg s p stream good fun x =>
    let st := stream.toNat
    let q := seq.toNat
    if drainAt s x st < q || (drainAt s x st = q && topOf x st < q) then bump s 0x4008 (p + 1)
    else if q ≤ reclaimedOf s.jrn st then
      notice (putSession s (setPtr x st (reclaimedOf s.jrn st + 1))) 5
    else putSession s (setPtr x st q)

end Sys2Proof.Machine
end

