-- ==== Sys2Proof/Machine/Mirror.lean ====
section
/-! DEFINITION. The pair: heartbeats and loss judgement (R426, R427), claim, quorum, takeover and fencing
(R428 to R432), the records and state images that cross M0 (R421 to R423, R436, R437), moves (R439). -/

namespace Sys2Proof.Machine

/-- R420: codes of the pair states. -/
def pstCode : PState → Nat
  | .alone => 0
  | .joining => 1
  | .paired => 2
  | .claim => 3
  | .solo => 4
  | .fenced => 5
  | .resync => 6

def setPst (s : State) (st : PState) : State := { s with pair := { s.pair with st := st } }

/-- R426, R427: the device sends its heartbeats. -/
def beats (s : State) : Bool :=
  alive s && bit s.pair.cfg 63 && !s.pair.broken &&
  (match pst s with
   | .joining | .paired | .resync => true
   | .solo => s.pair.rejoin
   | _ => false)

-- quorum

def nadp (s : State) : Nat := fld s.pair.cfg 60 56

/-- R428: the index of a configured adapter by its peer identifier. -/
def adapterOf (s : State) (peer : Word) : Option Nat :=
  (List.range (min 16 (nadp s))).find? fun k => tget 0 s.pair.adp k = peer

/-- R428: the adapters listed make a quorum. -/
def quorumOf (s : State) (ks : List Nat) : Bool :=
  nadp s < 2 * ks.length || (2 * ks.length = nadp s && ks.contains (fld s.pair.cfg 55 52))

/-- R428: adapters from which a valid SOLO grant is held. -/
def granted (s : State) : List Nat := ((s.pair.grants.filter fun g => s.now < g.2).map (·.1)).eraseDups

def quorum (s : State) : Bool := quorumOf s (granted s)

/-- R430: with the answers of the adapters that have denied, not even all the others would make a quorum. -/
def hopeless (s : State) : Bool :=
  s.pair.denied ≠ [] &&
  !quorumOf s ((List.range (min 16 (nadp s))).filter fun k => !s.pair.denied.contains k)

-- entries of the pair states

/-- R427: no further MRC leaves, those that wait for M0 among them. -/
def haltMirror (s : State) : State :=
  let x := getPort s 8
  setPort { s with pair := { s.pair with broken := true, sending := 0 } } 8
    { x with waiting := x.waiting.filter fun m => match m.e with | .mrc .. => false | _ => true }

/-- R431, R439: what ends with the pair: moves, a rejoin, the partner's presence. -/
def endPair (s : State) (st : PState) : State :=
  let s := haltMirror s
  { s with pair := { s.pair with
    st := st, moves := [], rejoin := false, ready := false, met := false, rejoinOwed := false } }

/-- R431: no reply leaves this device any more for what it has accepted: held replies, replies of transactions that
end later, and duplicates. -/
def withdraw (s : State) : State :=
  let drop := fun (r : Rec) => if r.stream = ownStream s && r.tx.isSome then { r with replied := true } else r
  { s with
    jrn := { s.jrn with ring := s.jrn.ring.map drop, path := s.jrn.path.map drop }
    ctxs := s.ctxs.map fun e => (e.1, { e.2 with session := 0 })
    adm := { s.adm with
      owed := []
      reqs := s.adm.reqs.map fun r => { r with plan := r.plan.map fun x => { x with session := 0 } } } }

/-- R85, R431: FENCED. -/
def enterFenced (s : State) : State := notice (pairEvent (reclaim (withdraw (endPair s .fenced))) 5) 8

/-- R432, R77, R85: SOLO, OWNMAP, and the records of steps 2 and 3; a stream not yet opened opens with its first record
(log entry 100). -/
def enterSolo (s : State) : State :=
  let own : Word := if ownStream s = 1 then BitVec.allOnes 64 else 0
  let s := endPair s .solo
  pairEvent (reclaim (openStream { s with pair := { s.pair with
    ownmap := own, takeSeq := some (nextSeq s.jrn (1 - ownStream s)), soloOwed := true } })) 4

/-- R430: how the device leaves CLAIM. -/
def settleClaim (s : State) : State :=
  if pst s ≠ .claim then s
  else if quorum s then enterSolo s
  else if hopeless s then enterFenced s
  else s

/-- R85, R430: CLAIM, with MNT x0006 to every ACTIVE session whatever its limit; grants that are valid already may make
the quorum at once. -/
def enterClaim (s : State) : State :=
  let s := endPair { s with pair := { s.pair with denied := [] } } .claim
  settleClaim (mntAll (pairEvent (reclaim s) 1) 6 (BitVec.ofNat 64 (ownStream s * 2 ^ 56)))

/-- R427: mirror loss is judged. -/
def mirrorLoss (s : State) : State :=
  if s.pair.broken then s
  else
    let s := pairEvent (haltMirror s) 2
    if ownStream s = 1 then enterFenced s else s

/-- R427, R440: judgement of the paths as `hbm` and `hbp` now stand; `m0` says that M0 was the one that
fell silent. -/
def judge (s : State) (m0 : Bool) : State :=
  match pst s with
  | .paired =>
    if !s.pair.hbm && !s.pair.hbp then enterClaim s
    else if m0 then mirrorLoss s
    else pairEvent s 3
  | .resync => if !s.pair.hbm && !s.pair.hbp then enterFenced s else s
  -- R440: the rejoin is over, and what it had still to send
  | .solo =>
    if s.pair.rejoin && !s.pair.hbm && !s.pair.hbp then
      let s := haltMirror s
      { s with pair := { s.pair with rejoin := false } }
    else s
  | _ => s

/-- R427: M0 has gone DOWN. -/
def m0Lost (s : State) : State :=
  if s.pair.hbm then judge { s with pair := { s.pair with hbm := false } } true else s

-- records of the partner

/-- R74: the fields of a record's bytes; none when its format is wrong. -/
def parseRec (bs : List Byte) : Option Rec :=
  let n := field bs 4 2
  let k := field bs 2 1
  if field bs 0 2 = 1 && 128 ≤ n && bs.length = roundUp n 64 && n % 8 = 0 && field bs 3 1 < 3 &&
     (k = 1 || (0x10 ≤ k && k ≤ 0x15)) && field bs 46 1 < 64 && zeroAt bs 50 2 && zeroAt bs 56 8 &&
     zeroAt bs n (roundUp n 64 - n) && field bs 47 1 / 8 % 16 = 0 then
    some { Rec.blank (field bs 47 1 / 128) k (slice bs 64 (n - 128)) with
      seq := field bs 8 8
      status := field bs 3 1
      reason := field bs 48 2
      prog := field bs 6 2
      stamp := field bs 16 8
      done := field bs 24 8
      orig := BitVec.ofNat 64 (field bs 32 8)
      serial := field bs 40 4
      pool := field bs 44 2
      part := field bs 46 1
      port := field bs 47 1 % 8
      cycles := field bs 52 4
      prev := slice bs (n - 64) 32
      h := slice bs (n - 32) 32
      ready := true
      replied := true }
  else none

/-- R422: slots at or below FLOOR are retired. -/
def retireTo (r : DupRow) (floor : Nat) : DupRow :=
  { r with floor := max r.floor floor, slots := r.slots.filter fun d => floor < d.serial }

/-- R422, R423: the duplicate row of a mirrored transaction record, in the half of its stream. -/
def mirrorRow (s : State) (r : Rec) (floor : Nat) : State :=
  let d : DupSlot := ⟨r.serial, true, r.status, r.seq, excerptOf r⟩
  let new := fun (x : DupRow) => { putSlot (retireTo x floor) d with lastSec := r.stamp / 2 ^ 30 % 2 ^ 31 }
  match rowOf s r.stream r.orig with
  | some (i, x) => setRow s i (new x)
  | none =>
    match freeRow s r.stream with
    | some i => setRow s i (new { DupRow.free with orig := r.orig, used := true })
    | none => s

/-- R422: what a mirrored record changes. -/
def mirrorApply (s : State) (r : Rec) (floor : Nat) : State :=
  let d := fun o n => field r.body (8 + o) n
  match r.kind with
  | 0x01 => mirrorRow s r floor
  | 0x11 =>
    { s with adm := { s.adm with changes := s.adm.changes ++
      [⟨some (d 0 8), none, BitVec.ofNat 256 (d 16 32), [], d 8 8⟩] } }
  | 0x12 =>
    { s with adm := { s.adm with changes := s.adm.changes ++
      [⟨none, some (d 0 8), 0, (List.range 16).map fun i => BitVec.ofNat 64 (d (16 + 8 * i) 8), d 8 8⟩] } }
  | 0x14 => { s with pair := { s.pair with ownmap := BitVec.ofNat 64 (d 0 8) } }
  | _ => s

/-- A MAK leaves M0. -/
def sendMak (s : State) (stream seq : Nat) : State := sendOn s 8 0 16 none (.mak stream seq)

/-- The stream's first record of a rejoin has been taken. -/
def anchored (s : State) (st : Nat) : Bool := if st = 0 then s.pair.anchor0 else s.pair.anchor1
def setAnchor (s : State) (st : Nat) : State :=
  { s with pair := if st = 0 then { s.pair with anchor0 := true } else { s.pair with anchor1 := true } }

/-- R422 step 1: the chain of a record that arrives. -/
def chainOk (s : State) (r : Rec) : Bool :=
  let free := pst s = .resync && !anchored s r.stream
  r.h = chainOf r.prev r && (free || (r.seq = nextSeq s.jrn r.stream && r.prev = lastH s.jrn r.stream))

/-- R422, R437: a record that the partner sends is taken. One of the device's own stream is a record that the partner
holds. What lies before the first of a rejoin is reclaimed. -/
def takeMirror (s : State) (r : Rec) (floor : Nat) : State :=
  let first := pst s = .resync && !anchored s r.stream
  let own := decide (r.stream = ownStream s)
  let s := intoRing (setAnchor s r.stream)
    { r with ringAt := s.now, floor := floor, acked := own, ackAt := if own then s.now else 0, mirrored := true }
  let j := setSeq s.jrn r.stream (r.seq + 1) r.h
  let j := if first then setReclaimed j r.stream (r.seq - 1) else j
  fillUpdate (sendMak (mirrorApply { s with jrn := j } r floor) r.stream r.seq)

-- state images

/-- R456: what the pin path counts as at the start of a watch: silent while the chatter latch of PAIR_HB_IN holds. -/
def pinHeard (s : State) : Bool := !bit s.baro.chat 1

/-- R435, R437: what a joining device has accepted and not committed is discarded with its copies, and answered by nothing;
a resend goes to the survivor (log entry 130). -/
def discardWork (s : State) : State :=
  let s := { s with adm := { s.adm with reqs := s.adm.reqs.filter fun r => !acceptHeld r } }
  (s.ctxs.filter fun e => inLedger e.2 || e.2.st = .ending).foldl (fun t e =>
    let t := if (getCore t e.2.lane).running = some e.1 then dropRunning t e.2.lane else t
    freeCtx (setCore t e.2.lane { getCore t e.2.lane with stgFly := none }) e.1) s

/-- R436, R437: the joining device discards its ring and what it had not sent; its tables start at their reset values,
which the images fill (log entry 72). Its stream stands until it is PAIRED. -/
def enterResync (s : State) : State :=
  let s := markCtr (discardWork s) rowsKey (rowsThen (discardWork s))
  { s with
    pair := { s.pair with
      st := .resync, broken := false, anchor0 := false, anchor1 := false, ready := false, takeSeq := none
      soloOwed := false, rejoinOwed := false, met := false, moves := [], mhbAt := s.now, pinAt := s.now, hbm := true
      hbp := pinHeard s }
    jrn := { s.jrn with path := [], ring := [], opened := false, halted := none }
    adm := { s.adm with rows := [], pools := [], sels := [], owed := [], changes := [] } }

/-- R41: the bytes of a duplicate row and its slots. -/
def rowBytes (r : DupRow) : List Byte :=
  wordBytes r.orig ++ beBytes 4 r.floor ++ beBytes 4 (2 * r.lastSec + b2n r.used) ++
  (r.slots.flatMap fun d =>
    beBytes 4 d.serial ++ beBytes 1 ((if d.done then 2 else 1) * 64 + d.status * 16) ++
    beBytes 8 d.seq ++ beBytes 8 d.excerpt) ++ zeros (21 * (16 - r.slots.length))

def slotsFrom (bs : List Byte) : Nat → Nat → List DupSlot
  | 0, _ => []
  | n + 1, o =>
    if bs.length < o + 21 then []
    else if field bs (o + 4) 1 / 64 = 0 then slotsFrom bs n (o + 21)
    else ⟨field bs o 4, decide (field bs (o + 4) 1 / 64 = 2), field bs (o + 4) 1 / 16 % 4, field bs (o + 5) 8, field bs (o + 13) 8⟩
      :: slotsFrom bs n (o + 21)

def rowFrom (bs : List Byte) : DupRow :=
  ⟨BitVec.ofNat 64 (field bs 0 8), field bs 8 4, field bs 12 4 / 2, field bs 12 4 % 2 = 1, slotsFrom bs 16 16⟩

/-- R41, R47, R52, R421: bytes of an entry of a state image. -/
def imageLen (stream : Nat) : Nat :=
  match stream with
  | 0x80 => 352
  | 0x81 => 32
  | 0x82 => 128
  | _ => 16

/-- R421: one state image entry is taken. -/
def takeEntry (s : State) (stream n : Nat) (bs : List Byte) : State :=
  match stream with
  | 0x80 => setRow s n (rowFrom bs)
  | 0x81 => { s with adm := { s.adm with pools := tput 0 s.adm.pools n (BitVec.ofNat 256 (field bs 0 32)) } }
  | 0x82 =>
    let ws := (List.range 16).map fun i => BitVec.ofNat 64 (field bs (8 * i) 8)
    { s with adm := { s.adm with sels := tput selReset s.adm.sels n ws } }
  | _ => { s with pair := { s.pair with
      ownmap := BitVec.ofNat 64 (field bs 0 8), homemap := BitVec.ofNat 64 (field bs 8 8) } }

/-- R421: the entries of a state image, from entry `n` on. -/
def takeImage (s : State) (stream n : Nat) (bs : List Byte) : Nat → State
  | 0 => s
  | k + 1 =>
    if bs.length < imageLen stream then s
    else takeImage (takeEntry s stream n (bs.take (imageLen stream))) stream (n + 1) (bs.drop (imageLen stream)) k

/-- R421: an MRC: stream, SEQ or entry number, FLOOR, and what it carries. -/
def sendImage (s : State) (m : Nat × Nat × Nat × List Byte) : State :=
  sendOn s 8 0 (16 + m.2.2.2.length) none (.mrc m.1 m.2.1 m.2.2.1 m.2.2.2)

/-- R437: the records that a rejoin sends: the unreclaimed ones and the last of each stream (log entry 100). -/
def rejoinRec (s : State) (r : Rec) : Bool := unreclaimed s r || isLast s r

/-- R436 step 2: the state images, then the records of both streams. -/
def rejoinMsgs (s : State) : List (Nat × Nat × Nat × List Byte) :=
  ((s.adm.rows.filter fun e => e.2.used).map fun e => (0x80, e.1, 0, rowBytes e.2)) ++
  (s.adm.pools.map fun e => (0x81, e.1, 0, beBytes 32 e.2.toNat)) ++
  (s.adm.sels.map fun e => (0x82, e.1, 0, e.2.flatMap wordBytes)) ++
  [(0x83, 0, 0, wordBytes s.pair.ownmap ++ wordBytes s.pair.homemap)] ++
  ((s.jrn.ring.filter (rejoinRec s)).map fun r => (r.stream, r.seq, r.floor, recBytes r))

/-- R436 step 2: the survivor sends the state images, then the records. -/
def startRejoin (s : State) : State :=
  let ms := rejoinMsgs s
  let mark := fun (r : Rec) => if rejoinRec s r then { r with sent := true } else r
  ms.foldl sendImage { s with
    pair := { s.pair with
      rejoin := true, broken := false, sending := ms.length, mhbAt := s.now, pinAt := s.now, hbm := true
      hbp := pinHeard s }
    jrn := { s.jrn with ring := s.jrn.ring.map mark } }

-- partition moves

/-- R439: a move of the partitions of `mask` starts. -/
def startMove (s : State) (mask : Word) : State :=
  let k := s.pair.moveId + 1
  { s with pair := { s.pair with moves := s.pair.moves ++ [⟨k, mask, false⟩], moveId := k } }

/-- R439 step 2: no accepted, uncompleted transaction names a pool of a moving partition. -/
def moveClear (s : State) (mask : Word) : Bool :=
  !((openTx s).any fun t => bit mask t.1) &&
  !(s.adm.reqs.any fun r =>
    match r.plan with | some x => bit mask x.part | none => false)

/-- R439: the first move whose record may be written now. -/
def nextMove (s : State) : Option Move := s.pair.moves.find? fun m => !m.recorded && moveClear s m.mask

/-- R439: OWNMAP `w` with the partitions of `mask` given to the partner. -/
def giveParts (s : State) (w mask : Word) : Word := if ownStream s = 1 then w &&& ~~~ mask else w ||| mask

/-- R439: the OWNMAP that the record of a move carries: with the moves whose records were written before. -/
def movedMap (s : State) (m : Move) : Word :=
  giveParts s ((s.pair.moves.filter (·.recorded)).foldl (fun w k => giveParts s w k.mask) s.pair.ownmap) m.mask

/-- R439 step 3: a pair event record is acknowledged; the moves that it carries are complete. -/
def movesAcked (s : State) (rs : List Rec) : State :=
  rs.foldl (fun t r =>
    if r.kind = 0x14 then
      let w : Word := BitVec.ofNat 64 (field r.body 8 8)
      { t with pair := { t.pair with
        ownmap := w, moves := t.pair.moves.filter fun m => !(m.recorded && giveParts t w m.mask = w) } }
    else t) s

/-- R437: the joining device resumes its stream after the last record of it that it was sent. -/
def resumeStream (s : State) : State :=
  if anchored s (ownStream s) then owedRecords { s with jrn := { s.jrn with opened := true } } else openStream s

/-- R438: PAIRED after a rejoin, with MNT x0007. The survivor writes the pair event record of the rejoin (R75, log
entry 107) when the journal can take it (R84), and hands back under AUTOHB. -/
def finishRejoin (s : State) (survivor : Bool) : State :=
  let s := notice { s with pair := { s.pair with
    st := .paired, broken := false, rejoin := false, ready := false, takeSeq := none, moves := [] } } 7
  let s := if survivor then owedRecords { s with pair := { s.pair with rejoinOwed := true } } else resumeStream s
  let back : Word := if ownStream s = 1 then ~~~ s.pair.homemap &&& s.pair.ownmap else s.pair.homemap &&& ~~~ s.pair.ownmap
  if survivor && bit s.pair.cfg 61 && back ≠ 0 then startMove s back else s

end Sys2Proof.Machine
end

