-- ==== Sys2Proof/Machine/Offers.lean ====
section
/-! DEFINITION. Image offers of the boot ROM: which is served, its chunk requests, and its end (R414, R475,
R476, R479). -/

namespace Sys2Proof.Machine

/-- Length of chunk `k` of an offer (R476). -/
def chunkLen (o : Offer) (k : Nat) : Nat := min 4096 (o.len - 4096 * k)

/-- The set's bytes received without a gap. -/
def offerData (o : Offer) : List Byte :=
  (o.chunks.foldl (fun (a : Nat × List Byte) e =>
    if e.1 = a.1 then (a.1 + 1, a.2 ++ e.2) else a) (0, [])).2

/-- R476: chunk requests, at most 8 outstanding, in ascending order. -/
def askChunks (s : State) (o : Offer) : Nat → State × Offer
  | 0 => (s, o)
  | n + 1 =>
    if o.asked.length < 8 && 4096 * o.nextChunk < o.len && canSend s o.port 3 16 then
      let k := o.nextChunk
      askChunks (sendOn s o.port 3 16 none (.brq o.port o.id k (chunkLen o k)))
        { o with asked := o.asked ++ [(k, s.now)], nextChunk := k + 1 } n
    else (s, o)

/-- The offer being served asks for what it may. -/
def pumpOffer (s : State) : State :=
  match s.boot.serving with
  | some o =>
    let r := askChunks s o 8
    { r.1 with boot := { r.1.boot with serving := some r.2 } }
  | none => s

/-- R414, R479: the held offer of the lowest port. -/
def nextHeld (os : List Offer) : Option Offer :=
  os.foldl (fun m o => match m with | some b => if o.port < b.port then some o else m | none => some o) none

/-- R476: BST. -/
def sendBst (s : State) (p id status image detail : Nat) : State :=
  sendOn s p 3 16 none (.bst p id status image detail)

/-- R477, R479: the next held offer is served; one too short for its header is refused. -/
def serveHeld (s : State) : Nat → State
  | 0 => s
  | n + 1 =>
    match s.boot.serving, nextHeld s.boot.held with
    | none, some o =>
      let s1 := { s with boot := { s.boot with held := s.boot.held.erase o } }
      if o.len < 64 then serveHeld (sendBst s1 o.port o.id 0xA1 0 0) n
      else pumpOffer { s1 with boot := { s1.boot with serving := some o } }
    | _, _ => s

def serveNext (s : State) : State := serveHeld s s.boot.held.length

/-- What the boot ROM was to blow for a set is over. -/
def Boot.dropSet (b : Boot) : Boot :=
  { b with serving := none, fuseJobs := b.fuseJobs.filter (·.use ≠ .set), fuseRetry := false }

/-- R479: the offer being served is refused; its set is discarded. -/
def refuseOffer (s : State) (status image detail : Nat) : State :=
  match s.boot.serving with
  | some o =>
    serveNext { sendBst s o.port o.id status image detail with boot := s.boot.dropSet }
  | none => s

/-- R476: a port has gone DOWN; its offers end without a BST. -/
def portOffers (s : State) (p : Nat) : State :=
  let b := { s.boot with held := s.boot.held.filter fun o => o.port ≠ p }
  match b.serving with
  | some o => if o.port = p then serveNext { s with boot := b.dropSet } else { s with boot := b }
  | none => { s with boot := b }

end Sys2Proof.Machine
end

