-- ==== Sys2Proof/Machine/Link.lean ====
section
/-! DEFINITION. The link layer of the ports: training (R382 to R388), loss of lock (R389), idle (R390), flits,
credits and replay (R391 to R396, R398), and the end of an attachment (R413). -/

namespace Sys2Proof.Machine

/-- The ports run: in the boot ROM and in service, above Mist (R475, R499). -/
def portsRun (s : State) : Bool := (s.phase = .rom || s.phase = .running) && s.pwr.cur < 3

/-- The port exists on the variant (R10). -/
def portExists (s : State) (p : Nat) : Bool := p = 8 || p < hostPorts s.part.variant

/-- R416: PCFG.EN. -/
def portEn (x : Port) : Bool := bit x.pcfg 29

/-- R386: where an untrained port waits. -/
def restState (x : Port) : LState := if portEn x then .detect else .disabled

/-- R413: replies sent and not acknowledged, and replies due later, go to the store. -/
def storeAll (s : State) (session : Nat) : List FlitTx → State
  | [] => s
  | f :: r => storeAll (match f.reply with | some m => storeReply s session m | none => s) session r

/-- R413, R520: what becomes of the session of a port that goes DOWN or is disabled: an ACTIVE one is
PARKED; a GRANTED one was never ACTIVE here, and returns to its park or ends. -/
def parkSession (s : State) (p : Nat) : State :=
  let x := getPort s p
  match s.sessions.find? fun y => y.id = x.session with
  | some y =>
    if y.st = 3 then putSession s { y with st := 4, parkedAt := s.now, wins := [] }
    else if y.parkedAt = 0 then { s with sessions := s.sessions.filter fun z => z.id ≠ y.id }
    else putSession s { y with st := 4, wins := [] }
  | none => s

/-- A port without a link: what belongs to the link is gone. -/
def Port.dropLink (x : Port) (to' : LState) : Port :=
  { x with
    ls := to', gen := 0, width := 0, rev := false, inv := 0
    session := 0, sstate := 0, hailAt := none, nakSent := false
    replay := [], replays := 0, common := []
    idle := false, standby := false, idleAsked := false, idleHeard := false, idleAcked := false
    answers := [], mnts := [], waiting := [], asm := [], trpEnd := 0, bootPeer := false }

/-- R389, R413, R476, R427: a port goes DOWN, or is disabled, or its link is closed. -/
def goDown (s : State) (p : Nat) : State :=
  let x := getPort s p
  let s := parkSession (storeAll s x.session x.replay) p
  let s := setPort s p (x.dropLink (restState x))
  let s := portOffers { s with time := { s.time with exch := s.time.exch.filter fun e => e.port ≠ p } } p
  if p = 8 then m0Lost { s with pair := { s.pair with far := none, met := false } } else s

/-- R501, R502: a signal or flit on a port wakes the device; one on M0 of a joined device does not by itself. -/
def hear (s : State) (p : Nat) : State := if p = 8 && joined s then s else stir s (p + 1)

/-- A control or idle flit, which an entry in progress expects (R390). -/
def hearCtl (s : State) (p : Nat) : State := if s.pwr.entering.isSome then s else hear s p

-- training

/-- R387, R416: LANE_SIGNAL_DETECT; PCFG as it stands governs the training that begins. -/
def execLaneSignalDetect (p : Nat) (s : State) : Out :=
  let x := getPort s p
  if portsRun s && portExists s p && portEn x && x.ls = .detect then
    .next (stir (setPort s p { x with ls := .negotiate, train := x.pcfg }) (p + 1))
  else .next s

/-- R416: generations 1 to 3 that PCFG allows; R385: M0 never T1. -/
def gensOf (cfg : Word) (p : Nat) : List Nat :=
  ([3, 2, 1] : List Nat).filter fun g => bit cfg (32 + g) && !(p = 8 && g = 1)

/-- R416: log2 of the widths that PCFG allows, widest first; R382: M0 only x4. -/
def widthsOf (cfg : Word) (p : Nat) : List Nat :=
  ([2, 1, 0] : List Nat).filter fun w => bit cfg (30 + w) && !(p = 8 && w ≠ 2)

/-- Training goes on with the first of the generations left: T1 has no equalization (R388). -/
def tryGen (s : State) (p : Nat) (x : Port) : List Nat → State
  | [] => setPort s p (x.dropLink (restState x))
  | g :: r => setPort s p { x with ls := if g = 1 then .align else .equalize, gen := g, common := r }

/-- R385, R387: NEGOTIATE_COMPLETE. Bits 0 to 2 of `gens` are T1 to T3, of `widths` x1 to x4 of the far end;
bit w of `lanes` says that lanes 0 to 2^w - 1 completed, in order or reversed. -/
def execNegotiateComplete (p : Nat) (gens widths lanes : BitVec 3) (rev : Bool) (inv : BitVec 4) (s : State) : Out :=
  let x := getPort s p
  if portsRun s && x.ls = .negotiate then
    let gs := (gensOf x.train p).filter fun g => bit gens (g - 1)
    match (widthsOf x.train p).find? fun w => bit widths w && bit lanes w with
    | some w => .next (tryGen (hear s p) p { x with width := 2 ^ w, rev := rev, inv := inv } gs)
    | none => .next (tryGen (hear s p) p x [])
  else .next s

/-- R387: EQUALIZE_COMPLETE, or its failure and the next lower common generation. -/
def execEqualizeComplete (p : Nat) (ok : Bool) (s : State) : Out :=
  let x := getPort s p
  if portsRun s && x.ls = .equalize then
    .next (if ok then setPort (hear s p) p { x with ls := .align } else tryGen (hear s p) p x x.common)
  else .next s

/-- R395: the device's receive buffers, in units of 64 bytes. -/
def fullGrants : List Nat := [256, 32, 256, 256]

-- lock

/-- R389: LOSS_OF_LOCK of an UP port. -/
def execLossOfLock (p : Nat) (s : State) : Out :=
  let x := getPort s p
  if portsRun s && x.ls = .up then .next (setPort s p { x with ls := .recover, recoverAt := s.now }) else .next s

/-- R394: the data flits kept are sent again from the oldest. -/
def replayAll (s : State) (p : Nat) : State :=
  let x := getPort s p
  match x.replay with
  | [] => s
  | f :: _ =>
    emit (setPort s p { x with replay := x.replay.map fun g => { g with at' := s.now } }) (.replay p f.seq)

/-- What waits on a port leaves as far as it can: messages, notices, chunk requests. -/
def refill (s : State) (p : Nat) : State :=
  let s := pumpTx s p
  pumpOffer (flushMnt s p ((getPort s p).mnts.length + 1))

/-- R389, R417: RELOCK, before the 10 µs have passed. -/
def execRelock (p : Nat) (s : State) : Out :=
  let x := getPort s p
  if portsRun s && x.ls = .recover && decide (s.now < x.recoverAt + 10 * micro) then
    let s := hear s p
    .next (refill (replayAll (setPort s p { getPort s p with ls := .up, replays := 0 }) p) p)
  else .next s

/-- R389: RECOVER_TIMEOUT, at 10 µs. -/
def execRecoverTimeout (p : Nat) (s : State) : Out :=
  let x := getPort s p
  if portsRun s && x.ls = .recover then .next (goDown (passTo s (x.recoverAt + 10 * micro)) p) else .next s

/-- R413: PARK_WINDOW_EXPIRY. -/
def execParkWindowExpiry (session : BitVec 32) (s : State) : Out :=
  match s.sessions.find? fun y => y.id = session.toNat && y.st = 4 with
  | some y =>
    if s.phase = .running then
      .next (passTo { s with sessions := s.sessions.filter fun z => z.id ≠ y.id } (y.parkedAt + 500 * milli))
    else .next s
  | none => .next s

-- flits

/-- R391: fields of a flit's header. -/
def flKind (bs : List Byte) : Nat := field bs 0 1 / 64
def flSeq (bs : List Byte) : BitVec 12 := BitVec.ofNat 12 (field bs 0 2)
def flAseq (bs : List Byte) : BitVec 12 := BitVec.ofNat 12 (field bs 2 2 / 16)
def flNak (bs : List Byte) : Bool := field bs 3 1 / 8 % 2 = 1

/-- R391: CTYPE of a control flit, and where its message space is zero from. -/
def flCtype (bs : List Byte) : Nat := field bs 8 1
def ctlEnd (bs : List Byte) : Nat := if flCtype bs = 1 then 24 else 16

/-- R391, R392: length, CRC, KIND and zero fields. -/
def flitOk (bs : List Byte) : Bool :=
  bs.length = 256 && (crc32c (bs.take 252)).toNat = field bs 252 4 && flKind bs ≠ 3 &&
  field bs 0 1 / 16 % 4 = 0 && field bs 3 1 % 8 = 0 && zeroAt bs 4 4 &&
  (flKind bs = 1 || flSeq bs = 0) && (flKind bs ≠ 2 || zeroAt bs (ctlEnd bs) (248 - ctlEnd bs))

/-- R384: a flit is discarded: it is not as R392 asks, or on T3 an uncorrectable codeword touched it. -/
def flitLost (x : Port) (fec : Bool) (bs : List Byte) : Bool := !flitOk bs || (fec && x.gen = 3)

/-- R391: ASEQ, NAK and CREDIT of a flit. -/
def hdrOf (p : Nat) (bs : List Byte) : FlitHdr := ⟨p, flAseq bs, flNak bs, BitVec.ofNat 32 (field bs 248 4)⟩

/-- R393: ASEQ acknowledges the flits up to it. -/
def ackFlits (x : Port) (aseq : BitVec 12) : Port :=
  if x.replay.any fun f => f.seq = aseq then
    { x with replay := (x.replay.dropWhile fun f => f.seq ≠ aseq).drop 1, replays := 0, ackSeq := aseq }
  else x

/-- R394: a replay; the fourth in a row without progress puts the port in RECOVER. -/
def doReplay (s : State) (p : Nat) : State :=
  let x := getPort s p
  if x.replay = [] then s
  else if 3 ≤ x.replays then setPort s p { x with ls := .recover, recoverAt := s.now, replays := 0 }
  else bump (replayAll (setPort s p { x with replays := x.replays + 1 }) p) 0x4004 (p + 1)

/-- R391: credits returned, VC0 in the high byte. -/
def addCredits (x : Port) (c : BitVec 32) : Port :=
  { x with credits := (List.range 4).map fun i => credit x.credits i + fld c (31 - 8 * i) (24 - 8 * i) }

/-- R391: what any good flit delivers: acknowledgement, credits, NAK. -/
def flitHeader (s : State) (p : Nat) (h : FlitHdr) : State :=
  let s := setPort s p (addCredits (ackFlits (getPort s p) h.aseq) h.credit)
  refill (if h.nak then doReplay s p else s) p

/-- R391, R395: the credits the device grants in its INIT; M0's buffers are not stated (log entry 28). -/
def ownCredits (p : Nat) : List Nat := if p = 8 then (List.range 4).map Config.m0Credit else fullGrants

/-- R391, R410: INIT with the far end's initial credits, exchanged for the device's own; the port is UP and hails.
Sequence numbers start again from 0 (log entry 33). R418: M0 UP locks the pair's LK fields. -/
def takeInit (s : State) (p : Nat) (h : FlitHdr) (cs : List Nat) : State :=
  let x := getPort s p
  let s1 := emit (setPort s p { x with
    ls := .up, txSeq := 0, rxSeq := 0, ackSeq := 0, nakSent := false, replay := [], replays := 0, sstate := 1
    credits := cs, grants := ownCredits p, hailAt := some s.now }) (.init p (ownCredits p))
  let s1 := if p = 8 then { s1 with pair := { s1.pair with locked := true } } else s1
  flitHeader s1 p h

/-- R391: INIT of a port in ALIGN. -/
def execInit (h : FlitHdr) (c0 c1 c2 c3 : BitVec 16) (s : State) : Out :=
  if portsRun s && (getPort s h.port).ls = .align then
    .next (takeInit (hear s h.port) h.port h [c0.toNat, c1.toNat, c2.toNat, c3.toNat])
  else .next s

/-- R392: a discarded flit is counted and logged (code x18). -/
def badFlit (s : State) (p : Nat) : State := bump (logFault s 0x18 1 5 p 0) 0x4003 (p + 1)

/-- R393: NAK once. -/
def sendNak (s : State) (p : Nat) : State :=
  let x := getPort s p
  if x.nakSent then s else emit (setPort s p { x with nakSent := true }) (.flitNak p x.rxSeq)

/-- R398: the fragment headers of a flit's message space from offset `o`, each with its offset. -/
def fragments (bs : List Byte) : Nat → Nat → List (Nat × Word)
  | 0, _ => []
  | n + 1, o =>
    let h : Word := BitVec.ofNat 64 (field bs o 8)
    if 248 < o + 8 || h = 0 then []
    else (o, h) :: fragments bs n (o + 8 + 8 * fld h 31 27)

def frVc (h : Word) : Nat := fld h 63 62
def frType (h : Word) : Nat := fld h 55 48
def frWords (h : Word) : Nat := fld h 31 27
def frCost (h : Word) : Nat := fragCost (frWords h)

/-- R399: types a port receives; others are reserved or run the other way. -/
def typeIn (p t : Nat) : Bool :=
  if p = 8 then [0x40, 0x41, 0x60, 0x61, 0x62].contains t
  else [0x10, 0x21, 0x22, 0x30, 0x41, 0x43, 0x48, 0x4A, 0x50, 0x52].contains t

/-- R399: the channel of a type that a port receives. -/
def typeVc (t : Nat) : Nat :=
  if t = 0x10 || 0x60 ≤ t then 0 else if t = 0x21 || t = 0x22 then 1 else if t = 0x30 then 2 else 3

/-- R399, R401, R408, R421, R476: body bytes of a type that a port receives. -/
def typeLen (t n : Nat) : Bool :=
  match t with
  | 0x10 => 24 ≤ n && n ≤ 1048
  | 0x30 => 16 ≤ n && n ≤ 8192
  | 0x4A => 16 ≤ n && n ≤ 4112
  | 0x60 => 16 < n
  | 0x40 => n = 24
  | 0x41 | 0x62 => n = 32
  | _ => n = 16

/-- R400, R415: types whose FIRST fragment leads its flit. -/
def typeLeads (t : Nat) : Bool := t = 0x10 || t = 0x50 || t = 0x52

/-- R398: what a fragment at offset `o` breaks by itself: zero bits, FW above 29, type x00, the flit's end. -/
def frBad (o : Nat) (h : Word) : Bool :=
  fld h 26 0 ≠ 0 || 29 < frWords h || frType h = 0 || 248 < o + 8 + 8 * frWords h

/-- R398: the message of a fragment as it then stands; one that goes on without a FIRST is bad. -/
def asmOf (old : Option Asm) (o : Nat) (h : Word) : Asm :=
  match bit h 61, old with
  | false, some a =>
    { a with got := a.got + frWords h, bad := a.bad || frBad o h || a.type ≠ frType h || a.mlen ≠ fld h 47 32 }
  | false, none => ⟨frVc h, fld h 59 56, frType h, fld h 47 32, frWords h, true⟩
  | true, _ =>
    ⟨frVc h, fld h 59 56, frType h, fld h 47 32, frWords h, frBad o h || (typeLeads (frType h) && o ≠ 8)⟩

/-- R399, R400, R402: a message whose LAST fragment has come is malformed as its fragments show it; `padded` says
that only padding follows it in its flit. -/
def asmBad (p : Nat) (a : Asm) (padded : Bool) : Bool :=
  a.bad || !typeIn p a.type || a.vc ≠ typeVc a.type || 8 * a.got ≠ a.mlen || !typeLen a.type a.mlen ||
  (a.type = 0x10 && !padded)

/-- R398, R402: the messages in progress after the fragments of a flit, and how many malformed ones ended. A FIRST
of a stream that has not ended cuts its message short. -/
def takeFrags (p : Nat) (as : List Asm) : List (Nat × Word) → List Asm × Nat
  | [] => (as, 0)
  | (o, h) :: r =>
    let mine := fun (a : Asm) => decide (a.vc = frVc h) && decide (a.strm = fld h 59 56)
    let old := as.find? mine
    let a := asmOf old o h
    let rest := as.filter fun b => !mine b
    let q := takeFrags p (if bit h 60 then rest else rest ++ [a]) r
    (q.1, q.2 + b2n (bit h 61 && old.isSome) + b2n (bit h 60 && asmBad p a r.isEmpty))

def countBad (s : State) (p : Nat) : Nat → State
  | 0 => s
  | n + 1 => countBad (malformed s p) p n

/-- R395, R396: the credits that the fragments take, or none when one came without. -/
def takeGrants (gs : List Nat) : List (Nat × Word) → Option (List Nat)
  | [] => some gs
  | (_, h) :: r =>
    if credit gs (frVc h) < frCost h then none
    else takeGrants (setCredit gs (frVc h) (credit gs (frVc h) - frCost h)) r

/-- R393, R396: a data flit is accepted in sequence; one with a fragment that came without credit closes the link. It ends
an idle exchange (R390). -/
def takeFlit (s : State) (p : Nat) (bs : List Byte) : State :=
  let x := getPort s p
  let hs := fragments bs 30 8
  let gs := if x.creditAt + micro ≤ s.now then ownCredits p else x.grants
  let q := takeFrags p x.asm hs
  let s := setPort s p { x.dropExchange with rxSeq := x.rxSeq + 1, nakSent := false, creditAt := s.now, asm := q.1 }
  match takeGrants gs hs with
    | none => goDown s p
    | some g => countBad (setPort s p { getPort s p with grants := g }) p q.2

-- electrical idle

/-- R390, R502: the port may enter electrical idle. -/
def mayIdle (s : State) (p : Nat) : Bool :=
  let x := getPort s p
  portsRun s && x.ls = .up && x.replay = [] && x.mnts = [] && x.waiting = [] &&
  !(p = 8 && joined s && bit s.pair.cfg 63)

/-- R390: a port on which both ends have exchanged the control flits is in electrical idle. -/
def Port.idled (x : Port) : Port :=
  if x.idleAsked && x.idleHeard && x.idleAcked then { x.dropExchange with idle := true } else x

/-- R390, R417: IDLE_REQ of the far end; it is answered only with no data flit unacknowledged, and with the device's own
request unless that has gone. -/
def takeIdleReq (s : State) (p : Nat) : State :=
  let x := getPort s p
  if mayIdle s p then
    let s1 := emit (setPort s p (Port.idled { x with idleHeard := true, idleAsked := true })) (.idleAck p)
    if x.idleAsked then s1 else emit s1 (.idleReq p)
  else s

/-- R390: IDLE_ACK, which answers the device's request. -/
def takeIdleAck (s : State) (p : Nat) : State :=
  let x := getPort s p
  if mayIdle s p && x.idleAsked then setPort s p (Port.idled { x with idleAcked := true }) else s

/-- R391: a control flit that reaches an UP port by its CTYPE; a reserved one delivers its header alone. -/
def controlFlit (s : State) (p : Nat) (bs : List Byte) : State :=
  let s1 := flitHeader s p (hdrOf p bs)
  match flCtype bs with
  | 2 => takeIdleReq s1 p
  | 3 => takeIdleAck s1 p
  | _ => s1

/-- R391 to R396: DATA_FLIT; `f.fec` says that an uncorrectable codeword touched it. The messages it completes are
commands of their own, but for those that its fragments show to be malformed (log entry 27). -/
def execDataFlit (p : Nat) (f : RxFlit) (s : State) : Out :=
  let x := getPort s p
  if portsRun s && x.ls = .align && flKind f.bytes = 2 && flCtype f.bytes = 1 then
    let s := hear s p
    .next (if flitLost x f.fec f.bytes then badFlit s p
      else takeInit s p (hdrOf p f.bytes) ((List.range 4).map fun i => field f.bytes (16 + 2 * i) 2))
  else if portsRun s && x.ls = .up then
    let s := if flKind f.bytes = 1 then hear s p else hearCtl s p
    if flitLost x f.fec f.bytes then .next (sendNak (badFlit s p) p)
    else if flKind f.bytes = 2 then .next (controlFlit s p f.bytes)
    else
      let s1 := flitHeader s p (hdrOf p f.bytes)
      if flKind f.bytes ≠ 1 then .next s1
      else if flSeq f.bytes = x.rxSeq + 1 then .next (takeFlit s1 p f.bytes)
      else .next (sendNak s1 p)
  else .next s

/-- R391, R392: IDLE_FLIT; an idle flit is never sequenced. -/
def execIdleFlit (p : Nat) (f : RxFlit) (s : State) : Out :=
  let x := getPort s p
  if portsRun s && x.ls = .up then
    let s := hearCtl s p
    .next (if flitLost x f.fec f.bytes then badFlit s p else flitHeader s p (hdrOf p f.bytes))
  else .next s

/-- R394: NAK. -/
def execNak (p : Nat) (aseq : BitVec 12) (s : State) : Out :=
  let x := getPort s p
  if portsRun s && x.ls = .up then
    let s := hearCtl s p
    .next (refill (doReplay (setPort s p (ackFlits (getPort s p) aseq)) p) p)
  else .next s

/-- R394: REPLAY_TIMEOUT; the oldest flit has waited 20 µs. -/
def execReplayTimeout (p : Nat) (s : State) : Out :=
  let x := getPort s p
  match x.replay with
  | f :: _ =>
    if portsRun s && x.ls = .up then .next (doReplay (passTo s (f.at' + 20 * micro)) p) else .next s
  | [] => .next s

-- idle exchange

/-- R390, R391: IDLE_REQ. -/
def execIdleReq (h : FlitHdr) (s : State) : Out :=
  if portsRun s && (getPort s h.port).ls = .up then .next (takeIdleReq (flitHeader (hearCtl s h.port) h.port h) h.port) else .next s

/-- R390, R391: IDLE_ACK. -/
def execIdleAck (h : FlitHdr) (s : State) : Out :=
  if portsRun s && (getPort s h.port).ls = .up then .next (takeIdleAck (flitHeader (hearCtl s h.port) h.port h) h.port) else .next s

/-- R390: IDLE_EXIT; the port is UP again 1 µs after the first transition, 10 µs from standby. -/
def execIdleExit (p : Nat) (s : State) : Out :=
  let x := getPort s p
  if portsRun s && x.ls = .up && x.idle then
    let t := s.now + (if x.standby then 10 else 1) * micro
    let x1 := { x.dropExchange with idle := false, standby := false }
    let x1 := if x.session = 0 then { x1 with sstate := 1, hailAt := some t } else x1
    .next (refill (stir (passTo (setPort s p x1) t) (p + 1)) p)
  else .next s

end Sys2Proof.Machine
end

