-- ==== Sys2Proof/Machine/Microcode.lean ====
section
/-! DEFINITION. Fields of microwords, nanowords and customer selector entries (R299 to R306, R312). -/

namespace Sys2Proof.Machine

/-- R300, R299: fields of a microword. -/
def mwSeq (m : BitVec 40) : Nat := fld m 39 38
def mwBsel (m : BitVec 40) : Nat := fld m 37 32
def mwWait (m : BitVec 40) : Nat := fld m 31 26
def mwNano (m : BitVec 40) : Nat := fld m 25 14
def mwNext (m : BitVec 40) : Nat := fld m 13 0

/-- R304: fields of a nanoword. -/
def nwStretch (n : BitVec 160) : Nat := fld n 159 158
def nwItop (n : BitVec 160) : Nat := fld n 157 150
def nwDcop (n : BitVec 160) : Nat := fld n 149 146
def nwLanes (n : BitVec 160) : Nat := fld n 145 140
def nwFmop (n : BitVec 160) : Nat := fld n 139 132
def nwSrca (n : BitVec 160) : Nat := fld n 131 126
def nwSrcb (n : BitVec 160) : Nat := fld n 125 120
def nwDest (n : BitVec 160) : Nat := fld n 119 114
def nwTagmask (n : BitVec 160) : Nat := fld n 113 98
def nwTrap (n : BitVec 160) : Nat := fld n 97 94
def nwMsize (n : BitVec 160) : Nat := fld n 93 90
def nwAsel (n : BitVec 160) : Nat := fld n 89 86
def nwRchk (n : BitVec 160) : Bool := bit n 85
/-- R304 RMOD and RRULE: the modulus of the residue check, and its prediction rule. -/
def nwRmod (n : BitVec 160) : Nat := if bit n 84 then 9 else 999
def nwRrule (n : BitVec 160) : Nat := fld n 83 80
def nwUb (n : BitVec 160) : Bool := bit n 79
def nwCcw (n : BitVec 160) : Bool := bit n 78
def nwTsrc (n : BitVec 160) : Nat := fld n 77 76
def nwFlg (n : BitVec 160) : Bool := bit n 75
def nwRsv (n : BitVec 160) : Nat := fld n 74 72
def nwRtag (n : BitVec 160) : Byte := BitVec.ofNat 8 (fld n 71 64)
def nwConst (n : BitVec 160) : Word := BitVec.ofNat 64 (fld n 63 0)
def nwTick (n : BitVec 160) : Nat := fld n 9 0

/-- R312: fields of a customer selector entry. -/
def csValid (e : BitVec 64) : Bool := bit e 63
def csForm (e : BitVec 64) : Nat := fld e 62 61
def csLpriv (e : BitVec 64) : Nat := fld e 60 59
def csCount (e : BitVec 64) : Nat := fld e 49 40
def csEntry (e : BitVec 64) : Nat := fld e 13 0

/-- R302: T(c) of the waits a customer routine may use. -/
def waitTime (c : Nat) : Nat := ([0, 3, 4, 34, 4, 5, 22, 28, 2, 2, 3] : List Nat).getD c 0

/-- A nanoword reads SRCA (for its operation, its tag check or the address of what it stores), reads SRCB, and
delivers a result to DEST. -/
def gives (n : BitVec 160) : Bool :=
  if nwItop n ≠ 0 then nwItop n ≠ 0x0B
  else if nwDcop n ≠ 0 then nwDcop n ≠ 6
  else nwFmop n ≠ 0 && nwFmop n ≠ 2 && nwFmop n ≠ 8
def usesA (n : BitVec 160) : Bool :=
  (nwItop n ≠ 0 && nwItop n ≠ 0x0D) || nwDcop n ≠ 0 || 3 ≤ nwFmop n || nwTrap n % 2 = 1 ||
  (nwAsel n = 1 && (nwFmop n ≠ 0 || (gives n && nwDest n = 0x3B)))
def usesB (n : BitVec 160) : Bool :=
  (1 ≤ nwItop n && nwItop n ≤ 0x0B) || nwDcop n ≠ 0 || (2 ≤ nwFmop n && nwFmop n ≠ 7) || 2 ≤ nwTrap n

/-- R301: a microword judges SRCA. -/
def judgesA (m : BitVec 40) : Bool := mwBsel m = 8 || mwBsel m = 0x20

/-- R302: the wait conditions whose operation a nanoword starts. -/
def nwKinds (n : BitVec 160) : List Nat :=
  (if nwFmop n = 1 then [1] else []) ++ (if nwItop n = 9 then [2] else []) ++
  (if nwItop n = 10 then [3] else []) ++
  (match nwFmop n with | 3 | 4 => [4] | 5 => [5] | 6 => [6] | 7 => [7] | 8 => [8] | _ => []) ++
  (if nwDcop n = 0 then [] else [9, 10])

end Sys2Proof.Machine
end

