-- ==== Sys2Proof/Machine/Loader.lean ====
section
/-! DEFINITION. The loader checks on a customer image (R316), in order, with the code of the first that fails
and the selector or microword concerned. -/

namespace Sys2Proof.Machine

/-- A customer image's contents by address (R473). -/
structure CustImage where
  micro : Tbl (BitVec 40)
  nano : Tbl (BitVec 160)
  sels : Tbl (BitVec 64)
  deriving DecidableEq, Repr

def ciMicro (i : CustImage) (a : Nat) : BitVec 40 := tget 0 i.micro a
def ciNano (i : CustImage) (a : Nat) : BitVec 160 := tget 0 i.nano (mwNano (ciMicro i a))

/-- R296: customer microwords. -/
def custMicro (a : Nat) : Bool := 14336 ≤ a && a < 16384

/-- Valid entries, with their selectors. -/
def ciValid (i : CustImage) : Tbl (BitVec 64) := i.sels.filter fun e => csValid e.2

/-- R300: the microwords that may come next. -/
def nextMicro (m : BitVec 40) : List Nat :=
  match mwSeq m with
  | 0 => [mwNext m]
  | 1 => [mwNext m, mwNext m + 1]
  | 2 => (List.range 16).map (· + mwNext m)
  | _ => []

/-- Microwords reached from those in `todo`, inside the customer region. -/
def reached (i : CustImage) : Nat → List Nat → List Nat → List Nat
  | 0, _, seen => seen
  | _ + 1, [], seen => seen
  | n + 1, a :: r, seen =>
    if seen.contains a || !custMicro a then reached i n r seen
    else reached i n (nextMicro (ciMicro i a) ++ r) (a :: seen)

/-- R301: condition and dispatch codes, and those open to customers. -/
def bselCond (b : Nat) : Bool := b < 0x10
def bselDisp (b : Nat) : Bool := 0x20 ≤ b && b ≤ 0x22
def bselCust (b : Nat) : Bool := (b ≤ 0x0B) || b = 0x0E || b = 0x20 || b = 0x21

/-- R302: codes of the wait table. -/
def waitListed (w : Nat) : Bool := w ≤ 0x0B || (0x10 ≤ w && w ≤ 0x15) || (0x30 ≤ w && w ≤ 0x32)

/-- R300, R302: no reserved encoding. -/
def microOk (m : BitVec 40) : Bool :=
  waitListed (mwWait m) &&
  (match mwSeq m with
   | 0 => mwBsel m = 0
   | 1 => bselCond (mwBsel m) && mwNext m % 2 = 0
   | 2 => bselDisp (mwBsel m) && mwNext m % 16 = 0
   | _ => mwBsel m = 0 && mwNext m = 0)

/-- R305: operand codes. -/
def operandOk (c : Nat) : Bool := c ≤ 0x24 || (0x28 ≤ c && c ≤ 0x2F) || (0x38 ≤ c && c ≤ 0x3B)

/-- R316 xC6: classes that RTAG may name: RAW, FIX, DEC, FLT and NIL's class. -/
def rtagOk (t : Byte) : Bool := ([0, 1, 2, 3, 7, 9] : List Nat).contains (fld t 7 4)

/-- R316 xC6. -/
def openToCust (m : BitVec 40) (n : BitVec 160) : Bool :=
  bselCust (mwBsel m) && operandOk (nwSrca n) && operandOk (nwSrcb n) && operandOk (nwDest n) &&
  nwItop n ≤ 0x0E && nwDcop n ≤ 7 && nwFmop n ≤ 8 && nwTrap n ≤ 3 && nwMsize n ≤ 3 && nwAsel n ≤ 1 &&
  nwRsv n = 0 && nwStretch n = 0 && !nwUb n && rtagOk (nwRtag n) && (nwTsrc n ≠ 2 || nwItop n = 0x0C)

def isTemp (c : Nat) : Bool := 0x28 ≤ c && c ≤ 0x2F
def isArch (c : Nat) : Bool := c ≤ 0x24 || (0x38 ≤ c && c ≤ 0x3A)

/-- A path of a routine: the cycle in which its next microword is reached, the last start of each kind of
operation, temporaries written, registers written, stores made. -/
structure PathSt where
  t : Nat
  starts : Tbl Nat
  temps : List Nat
  regs : List Nat
  stores : Nat
  deriving DecidableEq, Repr

def kindKnown (ts : Tbl Nat) (c : Nat) : Bool := ts.any fun e => e.1 = c

/-- R302, R308: the cycle in which the microword executes. -/
def pathTime (p : PathSt) (m : BitVec 40) (n : BitVec 160) : Nat :=
  let w := mwWait m
  if w = 0x0B then p.t + nwTick n else if w = 0 then p.t else max p.t (tget 0 p.starts w + waitTime w)

/-- The path after a microword. -/
def pathNext (p : PathSt) (m : BitVec 40) (n : BitVec 160) : PathSt :=
  let t := pathTime p m n
  let d := nwDest n
  { t := t + 1
    starts := (nwKinds n).foldl (fun ts k => tset ts k t) p.starts
    temps := if gives n && isTemp d then d :: p.temps else p.temps
    regs := if gives n && isArch d && !p.regs.contains d then d :: p.regs else p.regs
    stores := p.stores + b2n (nwFmop n = 2) + b2n (gives n && d = 0x3B) }

/-- What a path does wrong at a microword: codes xC5, xC8, xC9 and xCA. -/
def pathFaults (count : Nat) (p : PathSt) (m : BitVec 40) (n : BitVec 160) (a : Nat) : List (Nat × Nat) :=
  let w := mwWait m
  let q := pathNext p m n
  (if w ≠ 0 && w ≠ 0x0B && !kindKnown p.starts w then [(0xC5, a)] else []) ++
  (if ((usesA n || judgesA m) && isTemp (nwSrca n) && !p.temps.contains (nwSrca n)) ||
      (usesB n && isTemp (nwSrcb n) && !p.temps.contains (nwSrcb n)) then [(0xC8, a)] else []) ++
  (if 4 < q.regs.length || 2 < q.stores then [(0xC9, a)] else []) ++
  (if count < q.t then [(0xCA, a)] else [])

/-- The faults of every path from microword `a`. -/
def walkPaths (i : CustImage) (count : Nat) : Nat → PathSt → Nat → List (Nat × Nat)
  | 0, _, _ => []
  | k + 1, p, a =>
    let m := ciMicro i a
    let n := ciNano i a
    pathFaults count p m n a ++ (nextMicro m).flatMap fun b => walkPaths i count k (pathNext p m n) b

/-- Microwords that lie on no cycle are peeled off; what stays has one (xC4). -/
def peel (i : CustImage) : Nat → List Nat → List Nat
  | 0, as => as
  | n + 1, as => peel i n (as.filter fun a => (nextMicro (ciMicro i a)).any as.contains)

/-- The first element that a test refuses. -/
def firstFail (as : List Nat) (ok : Nat → Bool) : Option Nat := as.find? fun a => !ok a

/-- R316 xC1. -/
def selectorOk (e : BitVec 64) : Bool :=
  !csValid e ||
  (csForm e ≠ 3 && custMicro (csEntry e) && 1 ≤ csCount e && csCount e ≤ 594 && fld e 58 50 = 0 && fld e 39 14 = 0)

/-- The tests of each microword by itself, in order. -/
def microTests (i : CustImage) : List (Nat × (Nat → Bool)) :=
  [(0xC2, fun a => microOk (ciMicro i a) && (nextMicro (ciMicro i a)).all custMicro),
   (0xC3, fun a => 3584 ≤ mwNano (ciMicro i a) && mwNano (ciMicro i a) < 4096)]

def microTests2 (i : CustImage) : List (Nat × (Nat → Bool)) :=
  [(0xC6, fun a => openToCust (ciMicro i a) (ciNano i a)),
   (0xC7, fun a => nwDcop (ciNano i a) = 0 || nwRchk (ciNano i a))]

/-- R316 xC5 as far as one microword shows it. -/
def waitOk (i : CustImage) (a : Nat) : Bool :=
  let w := mwWait (ciMicro i a)
  w ≤ 0x0B && (w ≠ 0x0B || (1 ≤ nwTick (ciNano i a) && nwTick (ciNano i a) ≤ 594))

def firstTest (as : List Nat) : List (Nat × (Nat → Bool)) → Option (Nat × Nat)
  | [] => none
  | (c, f) :: r => match firstFail as f with | some a => some (c, a) | none => firstTest as r

/-- R316: the code of the first check that fails, with its detail. -/
def loaderCheck (i : CustImage) : Option (Nat × Nat) :=
  match i.sels.find? fun e => !selectorOk e.2 with
  | some e => some (0xC1, e.1)
  | none =>
    let as := (reached i 40000 ((ciValid i).map fun e => csEntry e.2) []).reverse
    match firstTest as (microTests i) with
    | some r => some r
    | none =>
      match (peel i as.length as).head? with
      | some a => some (0xC4, a)
      | none =>
        let ps := (ciValid i).flatMap fun e =>
          walkPaths i (csCount e.2) 2049 ⟨0, [], [], [], 0⟩ (csEntry e.2)
        let of := fun (c : Nat) => ps.find? fun f => f.1 = c
        match firstFail as (waitOk i) with
        | some a => some (0xC5, a)
        | none =>
          (of 0xC5).or ((firstTest as (microTests2 i)).or ((of 0xC8).or ((of 0xC9).or (of 0xCA))))

end Sys2Proof.Machine
end

