-- ==== Sys2Proof/Machine/Boot.lean ====
section
/-! DEFINITION. The boot ROM (R470 to R482, R485, R515): fuses, image offers over VC3, the checks of each
envelope, measurement, and the start of the steward firmware. -/

namespace Sys2Proof.Machine

-- fuses and slots

/-- R470. -/
def slotUsable (b : Boot) (k : Nat) : Bool := k < 4 && tget 0 b.slots k ≠ 0 && !bit b.revoke k

/-- R470: the fuse state block. -/
def fuseBlock (b : Boot) : List Byte :=
  (List.range 4).flatMap (fun k => beBytes 32 (tget 0 b.slots k).toNat) ++
  beBytes 1 b.revoke.toNat ++ beBytes 1 b.life ++ beBytes 2 b.arb ++ zeros 28

-- measurement

/-- R481: a measurement entry. -/
def mEntry (kind slot svn version present : Nat) (digest : List Byte) : List Byte :=
  beBytes 1 kind ++ beBytes 1 slot ++ beBytes 2 svn ++ beBytes 2 version ++ beBytes 1 present ++ zeros 25 ++ digest

/-- A list of exactly `n` bytes. -/
def fixLen (n : Nat) (l : List Byte) : List Byte := (l ++ zeros n).take n

/-- R556: the capacities of a memory port. -/
def gibOk (n : Nat) : Bool := n = 2 || n = 4 || n = 8 || n = 16

/-- R475, R556: the eight memory ports carry equal capacities. -/
def gibsOk (p : Part) : Bool := p.gibs.length = 8 && p.gibs.all fun n => n = p.gib && gibOk n

/-- R475 steps 1 to 4: the boot ROM runs; the ports train. Ports of unequal capacities are code x1A here; a port that fails
its training is a BAROMETER_FAULT of that code. -/
def romStart (s : State) : State :=
  let s1 := { s with
    phase := .rom
    boot := { s.boot with
      serving := none
      held := []
      fuseJobs := []
      fuseRetry := false
      dramOk := gibsOk s.part
      mlog := [mEntry 0 0xFE 0 s.part.stepping 1 (fixLen 64 Config.romDigest), mEntry 1 0xFE 0 0 1 (sha512 (fuseBlock s.boot))] } }
  let s1 := driveMem s1 true .active
  if gibsOk s.part then s1 else alertFault s1 0x1A 4 (Config.blockIndex 0x1A 0 % 256) 0

-- envelopes

/-- R472: fields of an envelope. -/
def evKind (e : List Byte) : Nat := field e 2 1
def evSlot (e : List Byte) : Nat := field e 3 1
def evSvn (e : List Byte) : Nat := field e 4 2
def evVersion (e : List Byte) : Nat := field e 6 2
def evLen (e : List Byte) : Nat := field e 8 4
def evFlags (e : List Byte) : Nat := field e 12 4
def evCminver (e : List Byte) : Nat := evFlags e / 65536
def evRevoke (e : List Byte) : Nat := evFlags e / 16 % 16
def evCommit (e : List Byte) : Bool := evFlags e % 2 = 1
def evSerial (e : List Byte) : Nat := field e 16 8
def evLoad (e : List Byte) : Nat := field e 24 8
def evCkhash (e : List Byte) : List Byte := slice e 32 32
def evHeader (e : List Byte) : List Byte := e.take 128
def evPayload (e : List Byte) : List Byte := slice e 128 (evLen e)
/-- The signer block. -/
def evSigner (e : List Byte) : List Byte := slice e (128 + evLen e) 5376
/-- Bytes of the whole envelope (R474). -/
def evSize (e : List Byte) : Nat := 5504 + evLen e

/-- R473: LENGTH of an image of kind `k`. -/
def lenOk (k n : Nat) : Bool :=
  if k = 1 then 0x10000 ≤ n && n ≤ 0x1000000 && n % 64 = 0
  else if k = 2 then n = 143360
  else n = 22528

/-- R472: zero fields, and fields that hold one value, of an envelope. -/
def zerosOk (e : List Byte) : Bool :=
  let k := evKind e
  zeroAt (evSigner e) 5357 19 &&
  (if k = 1 then evFlags e / 256 % 256 = 0 && evFlags e / 2 % 8 = 0 && evLoad e < 2 ^ 40 && evLoad e % 65536 = 0
   else evFlags e = 0 && evLoad e = 0 && zeroAt e 32 32) &&
  (k ≠ 3 || (evSlot e = 0xFF && evSvn e = 0))

/-- R472: SHA3-256 of EDPK and MLPK. -/
def signerHash (sg : List Byte) : List Byte := sha3 (sg.take 1984)

/-- R474: where envelope `i` of a set begins; the first is at `o`. -/
def envOff (bs : List Byte) : Nat → Nat → Nat
  | 0, o => o
  | i + 1, o => envOff bs i (o + evSize (bs.drop o))

/-- Envelope `i` of a set, once its last byte has arrived. -/
def envelope (o : Offer) (i : Nat) : Option (List Byte) :=
  let e := (offerData o).drop (envOff (offerData o) i 64)
  if 128 ≤ e.length && evSize e ≤ e.length then some (e.take (evSize e)) else none

/-- R474: the image count of a set. -/
def setCount (bs : List Byte) : Nat := field bs 2 1

/-- R474, R477, R478: the set header; the status that refuses it. -/
def headerCheck (s : State) (o : Offer) (bs : List Byte) : Option Nat :=
  if field bs 0 2 ≠ 0x1B00 then some 0xA0
  else if field bs 8 8 ≠ o.len || !zeroAt bs 3 5 || !zeroAt bs 16 48 then some 0xA1
  else if setCount bs ≠ 2 && setCount bs ≠ 3 then some 0xA9
  else if setCount bs = 3 && s.part.variant = .e then some 0xA8
  else none

/-- The customer image's contents (R473). -/
def custImage (p : List Byte) : CustImage where
  micro := trun 0 14336 ((List.range 2048).map fun i => BitVec.ofNat 40 (field p (5 * i) 5))
  nano := trun 0 3584 ((List.range 512).map fun i => BitVec.ofNat 160 (field p (10240 + 20 * i) 20))
  sels := trun 0 0 ((List.range 256).map fun i => BitVec.ofNat 64 (field p (20480 + 8 * i) 8))

/-- R478: the steward image's REVOKE and LOAD. -/
def stewardOk (s : State) (e : List Byte) : Bool :=
  let rv := s.boot.revoke ||| BitVec.ofNat 4 (evRevoke e)
  !bit (BitVec.ofNat 4 (evRevoke e)) (evSlot e) &&
  (evRevoke e = 0 || (List.range 4).any (slotUsable { s.boot with revoke := rv })) &&
  decide (evLoad e + evLen e ≤ dramBytes s.part)

/-- R477 step 3. -/
def signerOk (s : State) (st e : List Byte) : Bool :=
  if evKind e = 3 then !zeroAt st 32 32 && signerHash (evSigner e) = evCkhash st
  else slotUsable s.boot (evSlot e) && beNat (signerHash (evSigner e)) = (tget 0 s.boot.slots (evSlot e)).toNat

/-- R477 step 4. -/
def versionOk (s : State) (st e : List Byte) : Bool :=
  if evKind e = 3 then evCminver st ≤ evVersion e else s.boot.arb ≤ evSvn e

/-- R477, R478, R316: the checks of envelope `i`; `st` is the steward envelope. Status and detail. -/
def envCheck (s : State) (i : Nat) (whole : Bool) (st e : List Byte) : Option (Nat × Nat) :=
  let sg := evSigner e
  if field e 0 2 ≠ 0x1B01 || evKind e ≠ i + 1 then some (0xA0, 0)
  else if !lenOk (i + 1) (evLen e) || !whole || !zerosOk e then some (0xA1, 0)
  else if evSerial e ≠ 0 && evSerial e ≠ s.part.serial.toNat then some (0xA2, 0)
  else if !signerOk s st e then some (0xA3, 0)
  else if !versionOk s st e then some (0xA4, 0)
  else if sha512 (evPayload e) ≠ slice e 64 64 then some (0xA5, 0)
  else if !Config.edVerify (sg.take 32) (evHeader e) (slice sg 1984 64) then some (0xA6, 0)
  else if !Config.mlVerify (slice sg 32 1952) (evHeader e) (slice sg 2048 3309) then some (0xA7, 0)
  else if i = 0 then (if stewardOk s e then none else some (0xA9, 0))
  else if i = 1 then (if evSlot e = evSlot st && evSvn e = evSvn st then none else some (0xA9, 0))
  else loaderCheck (custImage (evPayload e))

-- the start of the steward firmware

/-- R484: EDPK and MLPK of the key pairs of a role made of `seed`. -/
def keyBytes (role : Nat) (seed : List Byte) : List Byte :=
  fixLen 32 (Config.vaultKey 0 role seed) ++ fixLen 1952 (Config.vaultKey 1 role seed)

/-- R484, R486: EDSIG and MLSIG, by signatures of both kinds. -/
def sigBytes (sign : Nat → List Byte) : List Byte := fixLen 64 (sign 0) ++ fixLen 3309 (sign 1)

/-- R484: an endorsement of keys, with the signatures that `sign` gives bytes 0 to 2,047. -/
def endorsement (s : State) (role : Nat) (keys ref : List Byte) (sign : Nat → List Byte → List Byte) : List Byte :=
  let body := beBytes 2 0x1E01 ++ beBytes 1 role ++ zeros 5 ++ wordBytes s.part.serial ++ ref ++ keys ++ zeros 16
  body ++ sigBytes fun k => sign k body

/-- R483: SECRET as bytes. -/
def secretBytes (v : BitVec 256) : List Byte := beBytes 32 v.toNat

/-- R485: what the attestation keys are made of: SECRET and the measurement entries. -/
def attSeed (s : State) (mlog : List (List Byte)) : List Byte := secretBytes s.boot.secret ++ mlog.flatten

/-- R484, R485: the attestation endorsement, with REF over the measurement entries, signed by the identity keys (log entry
17). -/
def attestation (s : State) (mlog : List (List Byte)) : List Byte :=
  endorsement s 2 (keyBytes 2 (attSeed s mlog)) (sha3 mlog.flatten) fun k m =>
    Config.vaultSign k 1 (secretBytes s.boot.secret) m

/-- R483: the identity endorsement, which fuse-protected ROM holds since manufacture, signed by the factory keys. -/
def identity (s : State) : List Byte :=
  endorsement s 1 (keyBytes 1 (secretBytes s.part.secret)) (zeros 32) Config.factorySign

/-- R481, R482: the entry of an image. -/
def imageEntry (e : List Byte) (kind : Nat) : List Byte :=
  mEntry kind (evSlot e) (evSvn e) (evVersion e) 1 (sha512 (evHeader e))

/-- R473: the control stores and the customer selector table. -/
def loadStores (b : Boot) (mc : List Byte) (cu : Option (List Byte)) : Boot :=
  let p := evPayload mc
  let m := trun (0 : BitVec 40) 0 ((List.range 14336).map fun i => BitVec.ofNat 40 (field p (5 * i) 5))
  let n := trun (0 : BitVec 160) 0 ((List.range 3584).map fun i => BitVec.ofNat 160 (field p (71680 + 20 * i) 20))
  match cu with
  | some c =>
    let i := custImage (evPayload c)
    { b with micro := m ++ i.micro, nano := n ++ i.nano, custSel := i.sels }
  | none => { b with micro := m, nano := n, custSel := [] }

/-- R515: steward core 0 executes at LOAD; the watchdog, the join timeout and the CAN FD port start. -/
def stewardRuns (s : State) : State :=
  let k := getCore s 256
  commReset (setCore { s with
    phase := .running
    baro := { s.baro with wdAt := some s.now }
    pair := { s.pair with joinAt := s.now } } 256
      { k with own := { k.own with ia := s.boot.load }, freeAt := s.now, sched := Sched.fresh (s.now / cyc) })

/-- R480 steps 3 to 7. -/
def finishBoot (s : State) (o : Offer) (st mc : List Byte) (cu : Option (List Byte)) : State :=
  let mlog := s.boot.mlog ++ [imageEntry st 2, imageEntry mc 3,
    match cu with | some c => imageEntry c 4 | none => mEntry 4 0xFF 0 0 0 (zeros 64)]
  let keys := (evPayload st).drop (evLen st - 1984)
  let s1 := { s with
    mem := blit s.mem (evLoad st) 0 (evPayload st)
    boot := { loadStores s.boot mc cu with
      mlog := mlog
      attEnd := attestation s mlog
      attKeys := some (attSeed s mlog)
      stVersion := evVersion st
      mcVersion := evVersion mc
      bslot := evSlot st
      load := BitVec.ofNat 40 (evLoad st)
      cmdEd := keys.take 32
      cmdMl := keys.drop 32
      ckhash := evCkhash st
      cminver := evCminver st
      serving := none
      held := [] } }
  let s2 := sendBst s1 o.port o.id 0 0 0
  stewardRuns (s.boot.held.foldl (fun t h => sendBst t h.port h.id 2 0 0) s2)

/-- R480: every image has passed, and no fuse bit is left to blow; step 3 on. -/
def bootOn (s : State) : State :=
  match s.boot.serving with
  | some o =>
    (match envelope o 0, envelope o 1 with
     | some st, some mc => finishBoot s o st mc (if setCount (offerData o) = 3 then envelope o 2 else none)
     | _, _ => s)
  | none => s

/-- R480 steps 1 and 2: the fuse bits that the set asks for. -/
def fuseAsk (s : State) (st : List Byte) : List Fuse :=
  List.replicate (if s.boot.life = 3 && evCommit st then min 4096 (evSvn st) - s.boot.arb else 0) .arb ++
  ((List.range 4).filter fun k => evRevoke st / 2 ^ k % 2 = 1 && !bit s.boot.revoke k).map .revoke

-- fuses

/-- A fuse bit reads blown; the next bit of the thermometer LIFE is the next state of R487. -/
def Boot.blown (b : Boot) (f : Fuse) : Boot :=
  match f with
  | .arb => { b with arb := b.arb + 1 }
  | .revoke k => { b with revoke := setFld b.revoke k k 1 }
  | .slot k i => { b with slots := tset b.slots k (setFld (tget 0 b.slots k) i i 1) }
  | .life => { b with life := b.life + 1 }
  | .secret i => { b with secret := setFld b.secret i i 1 }

/-- R488, R491: a lifecycle or debug record, once the stream is open and has room. -/
def lifeRecord (s : State) (code : Nat) : State :=
  let s := { s with boot := { s.boot with debugRec := s.boot.debugRec ++ [code] } }
  if s.jrn.opened then debugRecord s code else s

/-- R488 steps 2 to 4: the key vault holds no key; fail-silent follows the record, or comes at once when no journal runs. -/
def enterRetired (s : State) : State :=
  let s := { s with boot := { s.boot with
    idKeys := false, attKeys := none, sessionKeys := false, reportAsk := none, retiring := true } }
  if s.jrn.opened && alive s then lifeRecord s 3 else silence s

/-- R489: a refused SLOTPROG or LCADV sets the status bit. -/
def tapRefuse (s : State) : State := { s with boot := { s.boot with dbgStatus := true } }

/-- R471: what follows when the last bit of an operation is blown; the boot ROM stands in fail-silent (R453). -/
def fusesDone (s : State) (use : FuseUse) : State :=
  match use with
  | .set => if s.phase = .rom then bootOn s else s
  | .retire => enterRetired s
  | .slotprog | .lcadv | .production => s

/-- R471: what follows when a bit reads unblown twice. -/
def fusesFail (s : State) (use : FuseUse) : State :=
  match use with
  | .set => if s.phase = .rom then refuseOffer s 0xAA 0 0 else s
  | .slotprog | .lcadv => tapRefuse s
  | .production | .retire => s

/-- R471: an operation blows the bits given; with none it is done. -/
def blowFuses (s : State) (use : FuseUse) (bits : List Fuse) : State :=
  if bits = [] then fusesDone s use
  else { s with boot := { s.boot with fuseJobs := s.boot.fuseJobs ++ [⟨use, bits⟩] } }

-- commands

/-- The boot ROM takes messages on the host port. -/
def romPort (s : State) (p : Nat) : Bool :=
  s.phase = .rom && p < hostPorts s.part.variant && (getPort s p).ls = .up && !(getPort s p).idle

/-- R402, R475, R479: BOF; the boot ROM serves it. A set too short for its header fails its length check. -/
def execBof (p : Nat) (offer : BitVec 32) (len : Nat) (good : Bool) (s : State) : Out :=
  let o : Offer := ⟨p, offer.toNat, len, [], [], 0, 0, false⟩
  if !romPort s p then .next (if alive s && portUp s p && (!good || offer = 0) then malformed s p else s)
  else if !good || offer = 0 then .next (malformed s p)
  else if !(getPort s p).bootPeer then .next s
  else if s.boot.life = 4 then .next (sendBst s p o.id 0xAB 0 0)
  else if !s.boot.dramOk then .next (sendBst s p o.id 0xAD 0 0)
  else if s.boot.serving.isSome then
    .next (sendBst { s with boot := { s.boot with held := s.boot.held ++ [o] } } p o.id 1 0 0)
  else
    let s1 := { s with boot := { s.boot with serving := some o } }
    .next (if len < 64 then refuseOffer s1 0xA1 0 0 else pumpOffer s1)

/-- A chunk has arrived: the set header is checked as soon as it is there (R477). -/
def takeChunk (s : State) (o : Offer) (k : Nat) (data : List Byte) : State :=
  let o := { o with chunks := tset o.chunks k data, asked := o.asked.filter fun a => a.1 ≠ k }
  let s := { s with boot := { s.boot with serving := some o } }
  if k = 0 && !o.hdrOk then
    match headerCheck s o (data.take 64) with
    | some c => refuseOffer s c 0 0
    | none => pumpOffer { s with boot := { s.boot with serving := some { o with hdrOk := true } } }
  else pumpOffer s

/-- R402, R476: BDT; one that disagrees with its BRQ is malformed. -/
def execBdt (p : Nat) (k : ChunkId) (len : Nat) (data : List Byte) (good : Bool) (s : State) : Out :=
  if !romPort s p then .next (if alive s && portUp s p && !good then malformed s p else s)
  else if !good then .next (malformed s p)
  else match s.boot.serving with
  | some o =>
    if o.port = p && o.id = k.offer.toNat && (o.asked.any fun a => a.1 = k.chunk) && len = chunkLen o k.chunk && data.length = len then
      .next (takeChunk s o k.chunk data)
    else .next (malformed s p)
  | none => .next (malformed s p)

/-- R476: BRQ_TIMEOUT; the oldest BRQ has waited 100 ms. -/
def execBrqTimeout (s : State) : Out :=
  match s.boot.serving with
  | some o =>
    (match o.asked with
     | a :: _ => if s.phase = .rom then .next (refuseOffer (passTo s (a.2 + 100 * milli)) 0xAC 0 0) else .next s
     | [] => .next s)
  | none => .next s

/-- The envelope to be checked next, and whether it is whole and, the last one, ends with the set. -/
def nextEnvelope (o : Offer) : Option (List Byte × Bool) :=
  let bs := offerData o
  let off := envOff bs o.checked 64
  match envelope o o.checked with
  | some e => some (e, o.checked + 1 ≠ setCount bs || off + e.length = o.len)
  | none => if bs.length = o.len then some (bs.drop off, false) else none

/-- R477 to R480: ENVELOPE_CHECK of the next whole envelope. -/
def execEnvelopeCheck (s : State) : Out :=
  match s.boot.serving with
  | some o =>
    if s.phase = .rom && o.hdrOk && decide (o.checked < setCount (offerData o)) then
      match nextEnvelope o with
      | some (e, whole) =>
        let st := (envelope o 0).getD []
        (match envCheck s o.checked whole st e with
         | some (c, d) => .next (refuseOffer s c o.checked d)
         | none =>
           let s1 := { s with boot := { s.boot with serving := some { o with checked := o.checked + 1 } } }
           if o.checked + 1 = setCount (offerData o) then
             .next (blowFuses s1 .set (fuseAsk s st))
           else .next s1)
      | none => .next s
    else .next s
  | none => .next s

/-- R471: FUSE_BLOW, 20 µs, of the next bit of the operation at work; one that reads unblown is blown again once, and
then its operation is refused. -/
def execFuseBlow (sticks : Bool) (s : State) : Out :=
  match s.boot.fuseJobs with
  | ⟨use, f :: r⟩ :: js =>
    if s.phase = .held then .next s
    else
      let s1 := passTo s (s.now + 20 * micro)
      if sticks then
        let b := s1.boot.blown f
        let s2 := { s1 with boot := { b with fuseJobs := if r = [] then js else ⟨use, r⟩ :: js, fuseRetry := false } }
        .next (if r = [] then fusesDone s2 use else s2)
      else if s.boot.fuseRetry then
        .next (fusesFail { s1 with boot := { s1.boot with fuseJobs := js, fuseRetry := false } } use)
      else .next { s1 with boot := { s1.boot with fuseRetry := true } }
  | _ => .next s

end Sys2Proof.Machine
end

