-- ==== Sys2Proof/Machine/Float.lean ====
section
/-! DEFINITION. binary64 arithmetic of IEEE 754-2019 as 07 R248 to R262 state it: exact results,
then one rounding under TE.RM, with the condition flags. -/

namespace Sys2Proof.Machine

/-- The set of conditions that occurred (R251). -/
structure FCond where
  nx : Bool
  uf : Bool
  of : Bool
  dz : Bool
  iv : Bool
  deriving DecidableEq, Repr

/-- No condition. -/
def FCond.none : FCond := ⟨false, false, false, false, false⟩

/-- The set in the bit positions of FL: bits [9:5] (R99, R252). -/
def FCond.bits (c : FCond) : Nat :=
  b2n c.nx * 512 + b2n c.uf * 256 + b2n c.of * 128 + b2n c.dz * 64 + b2n c.iv * 32

/-- A result and the conditions of the operation. -/
structure FRes where
  val : Word
  cond : FCond
  deriving DecidableEq, Repr

def fSign (x : Word) : Bool := bit x 63
def fExp (x : Word) : Nat := fld x 62 52
def fFrac (x : Word) : Nat := fld x 51 0
def fIsNan (x : Word) : Bool := fExp x = 2047 && fFrac x ≠ 0
def fIsInf (x : Word) : Bool := fExp x = 2047 && fFrac x = 0
def fIsZero (x : Word) : Bool := fExp x = 0 && fFrac x = 0
/-- A signaling NaN: bit 51 clear. -/
def fIsSnan (x : Word) : Bool := fIsNan x && !bit x 51
/-- R254: the NaN with its quiet bit set. -/
def fQuiet (x : Word) : Word := x ||| 0x0008000000000000
/-- R255: the default quiet NaN. -/
def fDefaultNan : Word := 0x7FF8000000000000
def fInf (s : Bool) : Word := if s then 0xFFF0000000000000 else 0x7FF0000000000000
def fMax (s : Bool) : Word := if s then 0xFFEFFFFFFFFFFFFF else 0x7FEFFFFFFFFFFFFF
def fZero (s : Bool) : Word := if s then 0x8000000000000000 else 0
/-- Significand of a finite value: value = (-1)^s * mant * 2^pow. -/
def fMant (x : Word) : Nat := if fExp x = 0 then fFrac x else fFrac x + 2 ^ 52
def fPow (x : Word) : Int := (if fExp x = 0 then 1 else (fExp x : Int)) - 1075

/-- Rounding direction of TE.RM (R96): whether a magnitude is moved up, from the parity of what is
kept, the comparison of what is dropped with one half (0 below, 1 equal, 2 above) and whether
anything is dropped. -/
def fRoundUp (rm : Nat) (s odd : Bool) (half : Nat) (inexact : Bool) : Bool :=
  if rm = 0 then half = 2 || (half = 1 && odd)
  else if rm = 1 then false
  else if rm = 2 then inexact && !s
  else inexact && s

/-- Drop `sh` low bits of `m` (with `sticky` below them) and round; the kept integer and whether the
result is inexact. -/
def fDrop (rm : Nat) (s : Bool) (m : Nat) (sticky : Bool) (sh : Nat) : Nat × Bool :=
  let keep := m / 2 ^ sh
  let rem := m % 2 ^ sh
  let inexact := rem ≠ 0 || sticky
  let half :=
    if sh = 0 then 0
    else if rem < 2 ^ (sh - 1) then 0
    else if rem = 2 ^ (sh - 1) && !sticky then 1 else 2
  (if fRoundUp rm s (keep % 2 = 1) half inexact then keep + 1 else keep, inexact)

/-- R250, R251 (log entry 97), R253: round the exact value (-1)^s * m * 2^q, m nonzero, with `sticky` set when
something nonzero lies below m (m then has at least 55 bits). -/
def fRound (rm : Nat) (s : Bool) (m : Nat) (sticky : Bool) (q : Int) : FRes :=
  let len := bitLen m
  -- as if the exponent range were unbounded
  let m1 := if len < 53 then m * 2 ^ (53 - len) else m
  let u := fDrop rm s m1 sticky (len - 53)
  let top : Int := q + len - 1 + (if u.1 = 2 ^ 53 then 1 else 0)
  if 1023 < top then
    let v :=
      if rm = 0 then fInf s
      else if rm = 1 then fMax s
      else if rm = 2 then (if s then fMax s else fInf s)
      else (if s then fInf s else fMax s)
    ⟨v, ⟨true, false, true, false, false⟩⟩
  else
    let low : Int := max (q + len - 53) (-1074)
    let r :=
      if low ≤ q then (m * 2 ^ (q - low).toNat, sticky)
      else fDrop rm s m sticky (low - q).toNat
    let mag := (low + 1074).toNat * 2 ^ 52 + r.1
    let tiny := mag < 2 ^ 52
    ⟨BitVec.ofNat 64 ((if s then 2 ^ 63 else 0) + mag), ⟨r.2, tiny && r.2, false, false, false⟩⟩

/-- Round a signed exact value m * 2^q; an exact zero takes the sign `zs`. -/
def fOfInt (rm : Nat) (m : Int) (q : Int) (zs : Bool) : FRes :=
  if m = 0 then ⟨fZero zs, .none⟩ else fRound rm (m < 0) m.natAbs false q

/-- R254, R255: the result when an operand is a NaN. -/
def fNan2 (a b : Word) : FRes :=
  ⟨if fIsNan a then fQuiet a else fQuiet b, { FCond.none with iv := fIsSnan a || fIsSnan b }⟩

/-- The invalid operation without a NaN operand. -/
def fInvalid : FRes := ⟨fDefaultNan, { FCond.none with iv := true }⟩

/-- Signed significand of a finite value. -/
def fInt (x : Word) : Int := if fSign x then - (fMant x : Int) else fMant x

/-- FADD (R248, R250). -/
def fAdd (rm : Nat) (a b : Word) : FRes :=
  if fIsNan a || fIsNan b then fNan2 a b
  else if fIsInf a then (if fIsInf b && fSign a ≠ fSign b then fInvalid else ⟨a, .none⟩)
  else if fIsInf b then ⟨b, .none⟩
  else
    let q := min (fPow a) (fPow b)
    let sum := fInt a * 2 ^ (fPow a - q).toNat + fInt b * 2 ^ (fPow b - q).toNat
    let zs := if fSign a = fSign b then fSign a else rm = 3
    fOfInt rm sum q zs

/-- FSUB: addition of the second operand with its sign reversed; a NaN operand keeps its sign. -/
def fSub (rm : Nat) (a b : Word) : FRes :=
  if fIsNan a || fIsNan b then fNan2 a b else fAdd rm a (b ^^^ 0x8000000000000000)

/-- FMUL. -/
def fMul (rm : Nat) (a b : Word) : FRes :=
  let s := fSign a != fSign b
  if fIsNan a || fIsNan b then fNan2 a b
  else if fIsInf a || fIsInf b then
    (if fIsZero a || fIsZero b then fInvalid else ⟨fInf s, .none⟩)
  else if fIsZero a || fIsZero b then ⟨fZero s, .none⟩
  else fRound rm s (fMant a * fMant b) false (fPow a + fPow b)

/-- FDIV: the quotient to 120 bits below the dividend, with a sticky remainder. -/
def fDiv (rm : Nat) (a b : Word) : FRes :=
  let s := fSign a != fSign b
  if fIsNan a || fIsNan b then fNan2 a b
  else if fIsInf a then (if fIsInf b then fInvalid else ⟨fInf s, .none⟩)
  else if fIsInf b then ⟨fZero s, .none⟩
  else if fIsZero b then
    (if fIsZero a then fInvalid else ⟨fInf s, { FCond.none with dz := true }⟩)
  else if fIsZero a then ⟨fZero s, .none⟩
  else
    let n := fMant a * 2 ^ 120
    fRound rm s (n / fMant b) (n % fMant b ≠ 0) (fPow a - fPow b - 120)

/-- Integer square root, bit by bit from bit `k` down. -/
def isqrt : Nat → Nat → Nat → Nat
  | 0, _, r => r
  | k + 1, n, r => if (r + 2 ^ k) * (r + 2 ^ k) ≤ n then isqrt k n (r + 2 ^ k) else isqrt k n r

/-- FSQRT. -/
def fSqrt (rm : Nat) (a : Word) : FRes :=
  if fIsNan a then fNan2 a a
  else if fIsZero a then ⟨a, .none⟩
  else if fSign a then fInvalid
  else if fIsInf a then ⟨a, .none⟩
  else
    let k : Nat := if (fPow a) % 2 = 0 then 120 else 121
    let n := fMant a * 2 ^ k
    let r := isqrt 90 n 0
    fRound rm false r (r * r ≠ n) ((fPow a - k) / 2)

/-- R257: quiet comparison: the condition code and the invalid condition. -/
def fCmp (a b : Word) : Nat × FCond :=
  if fIsNan a || fIsNan b then (3, { FCond.none with iv := fIsSnan a || fIsSnan b })
  else
    let key (x : Word) : Int := if fSign x then - (fld x 62 0 : Int) else fld x 62 0
    (if key a = key b then 0 else if key a < key b then 1 else 2, .none)

/-- R258: round to a 64-bit integer, saturating on an invalid operand. -/
def fToFix (rm : Nat) (a : Word) : FRes :=
  let bad (v : Word) : FRes := ⟨v, { FCond.none with iv := true }⟩
  let sat := if fSign a then bad 0x8000000000000000 else bad 0x7FFFFFFFFFFFFFFF
  if fIsNan a then bad 0
  else if fIsInf a then sat
  else
    let r : Nat × Bool :=
      if 0 ≤ fPow a then (fMant a * 2 ^ (fPow a).toNat, false)
      else fDrop rm (fSign a) (fMant a) false (- fPow a).toNat
    let v : Int := if fSign a then - (r.1 : Int) else r.1
    if v < -(2 ^ 63) || 2 ^ 63 ≤ v then sat
    else ⟨BitVec.ofInt 64 v, { FCond.none with nx := r.2 }⟩

/-- R259: a signed integer to binary64. -/
def fOfFix (rm : Nat) (a : Word) : FRes := fOfInt rm a.toInt 0 false

end Sys2Proof.Machine
end

