-- ==== Sys2Proof/Machine/Flags.lean ====
section
/-! DEFINITION. Integer results and overflow (R240 to R247), comparison codes, and the reaction to the
conditions of a binary64 operation (R252). -/

namespace Sys2Proof.Machine

/-- The result of an integer operation and whether it overflowed (R240). -/
structure IntRes where
  val : Word
  ovf : Bool
  deriving DecidableEq, Repr

/-- R240: the low 64 bits of an exact result, and whether it lies outside the signed range. -/
def ofExact (v : Int) : IntRes := ⟨BitVec.ofInt 64 v, decide (v < -(2 ^ 63) ∨ 2 ^ 63 ≤ v)⟩

/-- R245: SHL. -/
def shlRes (a : Word) (n : Nat) : IntRes :=
  if n < 64 then ⟨a <<< n, decide (a.toNat * 2 ^ n ≥ 2 ^ 64)⟩ else ⟨0, decide (a ≠ 0)⟩

/-- R245: SHR. -/
def shrRes (a : Word) (n : Nat) : IntRes := if n < 64 then ⟨a >>> n, false⟩ else ⟨0, false⟩

/-- R245: SAR. -/
def sarRes (a : Word) (n : Nat) : IntRes :=
  if n < 64 then ⟨a.sshiftRight n, false⟩ else ⟨if a.msb then BitVec.allOnes 64 else 0, false⟩

/-- Two-operand integer operations whose result is one word. -/
inductive IOp where
  | add | sub | mul | shl | shr | sar | and | or | xor
  deriving DecidableEq, Repr

/-- R240, R245: the result of an integer operation. -/
def intRes : IOp → Word → Word → IntRes
  | .add, a, b => ofExact (a.toInt + b.toInt)
  | .sub, a, b => ofExact (a.toInt - b.toInt)
  | .mul, a, b => ofExact (a.toInt * b.toInt)
  | .shl, a, b => shlRes a b.toNat
  | .shr, a, b => shrRes a b.toNat
  | .sar, a, b => sarRes a b.toNat
  | .and, a, b => ⟨a &&& b, false⟩
  | .or, a, b => ⟨a ||| b, false⟩
  | .xor, a, b => ⟨a ^^^ b, false⟩

/-- R246: CC of a signed comparison. -/
def cmpCc (a b : Int) : Nat := if a = b then 0 else if a < b then 1 else 2

/-- R239 steps 1 and 2, on one or two operands. -/
def intOperands (a b : TWord) : Except Stop Unit :=
  if isPoison a then poisonUse a
  else if isPoison b then poisonUse b
  else if !isInt a then tagMismatch 1 a
  else if !isInt b then tagMismatch 2 b
  else .ok ()

/-- R241: an integer result reaches rd, with the overflow rule. -/
def intResult (s : State) (c : Nat) (rd : Reg) (r : IntRes) : Except Stop State :=
  if r.ovf && teBit s c 0 then raise 9 0 0
  else
    let s := wrG s c rd (fix r.val)
    .ok (if r.ovf then setFl s c 0 else s)

/-- R242 to R244: quotient and remainder, with the divide and overflow rules. -/
def divResult (s : State) (c : Nat) (rd : Reg) (a b : Word) : Except Stop State :=
  let rm : Reg := rd + 1
  if b = 0 then
    if teBit s c 1 then raise 10 0 0
    else .ok (setFl (wrG (wrG s c rd (fix 0)) c rm (fix a)) c 1)
  else
    let q := a.toInt.tdiv b.toInt
    let r := a.toInt.tmod b.toInt
    let o := (ofExact q).ovf
    if o && teBit s c 0 then raise 9 0 0
    else
      let s := wrG (wrG s c rd (fixI q)) c rm (fixI r)
      .ok (if o then setFl s c 0 else s)

/-- R252: the exception of the first enabled condition, with its bit in TE. -/
def fpTrap (s : State) (c : Nat) (f : FCond) : Option Nat :=
  if f.iv && teBit s c 5 then some 0x0E
  else if f.dz && teBit s c 6 then some 0x0F
  else if f.of && teBit s c 7 then some 0x10
  else if f.uf && teBit s c 8 then some 0x11
  else if f.nx && teBit s c 9 then some 0x12
  else none

/-- R252: the conditions of an operation are judged; untrapped ones set their flags. -/
def fpConds (s : State) (c : Nat) (f : FCond) : Except Stop State :=
  match fpTrap s c f with
  | some code => raise code 0 f.bits
  | none =>
    let b := curBank s c
    .ok (setBank s c { b with fl := b.fl ||| BitVec.ofNat 64 f.bits })

/-- TE.RM. -/
def roundMode (s : State) (c : Nat) : Nat := fld (curBank s c).te 11 10

/-- The binary64 operations of two operands. -/
def fpRes (op : FOp) (rm : Nat) (a b : Word) : FRes :=
  match op with
  | .add => fAdd rm a b
  | .sub => fSub rm a b
  | .mul => fMul rm a b
  | .div => fDiv rm a b
  | .cmp => ⟨0, (fCmp a b).2⟩

end Sys2Proof.Machine
end

