-- ==== Sys2Proof/Machine/Integer.lean ====
section
/-! DEFINITION. The integer instructions (R237 to R247), with their counts (R286, R292). -/

namespace Sys2Proof.Machine

def aluStorage : AluForm → Bool
  | .rr .. => false
  | _ => true

def aluLen : AluForm → Nat
  | .rr .. => 3
  | .sr .. => 2
  | .sx _ m => 2 + memBytes (.sto m)

/-- Offset of a reserved encoding; `even` when rd must be even (R242). -/
def aluUnd (even : Bool) : AluForm → Option Nat
  | .rr rd _ _ | .sr rd _ => if even && rd.val % 2 = 1 then some 1 else none
  | .sx rd m => if even && rd.val % 2 = 1 then some 1 else memUnd 2 (.sto m)

/-- The registers read and written. -/
def aluTm (f : AluForm) (unit : Fu) (dsts : Reg → List Nat) : Tm :=
  match f with
  | .rr rd a b => tmOf false false unit [a.val, b.val] (dsts rd)
  | .sr rd a => tmOf true false unit [rd.val, a.val] (dsts rd)
  | .sx rd m => tmOf true false unit (memSrcs (.sto m)) (dsts rd) [rd.val]

/-- R286, R292: the count of a form. -/
def aluCount (rr sr sx : Nat) : AluForm → Nat
  | .rr .. => rr
  | .sr .. => sr
  | .sx _ m => sx + memCost (.sto m)

/-- R270: what an integer operation starts on. -/
def iopUnit : IOp → Fu
  | .mul => .mul
  | _ => .alu

def aluRunOf (i : Instr) (c : Nat) (f : AluForm) (even : Bool) (unit : Fu) (dsts : Reg → List Nat) : Run :=
  ⟨c, some (aluStorage f), aluLen f, aluUnd even f, aluTm f unit dsts, i.wf⟩

/-- R150: a memory word as an operand: the aligned word, or the bytes assembled and tagged RAW. -/
def memWord (s : State) (c info a : Nat) : Except Stop TWord := do
  checkBytes s c .read info a 8
  needFar s c [(a, 8)]
  if a % 8 = 0 then .ok (wholeWord s c a)
  else
    let bs ← wholeBytes s c a 8
    .ok ⟨0, BitVec.ofNat 64 (beNat bs)⟩

/-- The operands of an integer instruction. -/
structure AluIn where
  rd : Reg
  a : TWord
  b : TWord
  sides : List Ea

def aluIn (s : State) (c : Nat) (f : AluForm) : Except Stop AluIn := do
  match f with
  | .rr rd ra rb =>
    let a ← rdG s c ra
    let b ← rdG s c rb
    .ok ⟨rd, a, b, []⟩
  | .sr rd ra =>
    let a ← rdG s c rd
    let b ← rdG s c ra
    .ok ⟨rd, a, b, []⟩
  | .sx rd m =>
    let a ← rdG s c rd
    let e ← eaSto s c 2 8 false m
    let b ← memWord s c 2 e.a
    .ok ⟨rd, a, b, [e]⟩

/-- An integer operation on register or memory operands (R239 to R241). -/
def intBody (c : Nat) (op : IOp) (f : AluForm) (cnt : Nat) (s : State) : Except Stop Done := do
  let o ← aluIn s c f
  intOperands o.a o.b
  let s ← intResult s c o.rd (intRes op o.a.pay o.b.pay)
  .ok (Done.of (applySides s c o.sides) cnt)

def execAdd (c : Nat) (f : AluForm) (s : State) : Out :=
  runCore s (aluRunOf (.add c f) c f false .alu fun r => [r.val]) (intBody c .add f (aluCount 1 2 6 f))
def execSub (c : Nat) (f : AluForm) (s : State) : Out :=
  runCore s (aluRunOf (.sub c f) c f false .alu fun r => [r.val]) (intBody c .sub f (aluCount 1 2 6 f))
def execMul (c : Nat) (f : AluForm) (s : State) : Out :=
  runCore s (aluRunOf (.mul c f) c f false .mul fun r => [r.val]) (intBody c .mul f (aluCount 4 6 9 f))
def execShl (c : Nat) (f : AluForm) (s : State) : Out :=
  runCore s (aluRunOf (.shl c f) c f false .alu fun r => [r.val]) (intBody c .shl f (aluCount 1 2 6 f))
def execShr (c : Nat) (f : AluForm) (s : State) : Out :=
  runCore s (aluRunOf (.shr c f) c f false .alu fun r => [r.val]) (intBody c .shr f (aluCount 1 2 6 f))
def execSar (c : Nat) (f : AluForm) (s : State) : Out :=
  runCore s (aluRunOf (.sar c f) c f false .alu fun r => [r.val]) (intBody c .sar f (aluCount 1 2 6 f))
def execAnd (c : Nat) (f : AluForm) (s : State) : Out :=
  runCore s (aluRunOf (.and c f) c f false .alu fun r => [r.val]) (intBody c .and f (aluCount 1 2 6 f))
def execOr (c : Nat) (f : AluForm) (s : State) : Out :=
  runCore s (aluRunOf (.or c f) c f false .alu fun r => [r.val]) (intBody c .or f (aluCount 1 2 6 f))
def execXor (c : Nat) (f : AluForm) (s : State) : Out :=
  runCore s (aluRunOf (.xor c f) c f false .alu fun r => [r.val]) (intBody c .xor f (aluCount 1 2 6 f))

/-- R242 to R244. -/
def divBody (c : Nat) (f : AluForm) (cnt : Nat) (s : State) : Except Stop Done := do
  let o ← aluIn s c f
  intOperands o.a o.b
  let s ← divResult s c o.rd o.a.pay o.b.pay
  .ok (Done.of (applySides s c o.sides) cnt)

def execDiv (c : Nat) (f : AluForm) (s : State) : Out :=
  runCore s (aluRunOf (.div c f) c f true .div fun r => [r.val, r.val + 1])
    (divBody c f (aluCount 34 40 42 f))

/-- R246: comparison sets CC alone. -/
def cmpBody (c : Nat) (f : AluForm) (cnt : Nat) (s : State) : Except Stop Done := do
  let o ← aluIn s c f
  intOperands o.a o.b
  let s := setCc s c (cmpCc o.a.pay.toInt o.b.pay.toInt)
  .ok (Done.of (applySides s c o.sides) cnt)

def execCmp (c : Nat) (f : AluForm) (s : State) : Out :=
  runCore s (aluRunOf (.cmp c f) c f false .alu fun _ => [64]) (cmpBody c f (aluCount 1 2 6 f))

-- one operand

def unStorage : UnForm → Bool
  | .rr .. => false
  | .sr .. => true

def unRegs : UnForm → Reg × Reg
  | .rr rd ra | .sr rd ra => (rd, ra)

def unRunOf (i : Instr) (c : Nat) (f : UnForm) : Run :=
  ⟨c, some (unStorage f), if unStorage f then 2 else 3, none,
    tmOf (unStorage f) false .alu [(unRegs f).2.val] [(unRegs f).1.val], i.wf⟩

def unCount (f : UnForm) (rr sr : Nat) : Nat := if unStorage f then sr else rr

/-- NEG: overflow on MIN (R240). -/
def negBody (c : Nat) (f : UnForm) (s : State) : Except Stop Done := do
  let a ← rdG s c (unRegs f).2
  intOperands a (fix 0)
  let s ← intResult s c (unRegs f).1 (ofExact (-a.pay.toInt))
  .ok (Done.of s (unCount f 1 2))

def execNeg (c : Nat) (f : UnForm) (s : State) : Out :=
  runCore s (unRunOf (.neg c f) c f) (negBody c f)

/-- R238: MOV copies the word whole and checks no tag. -/
def movBody (c : Nat) (f : UnForm) (s : State) : Except Stop Done := do
  let a ← rdG s c (unRegs f).2
  .ok (Done.of (wrG s c (unRegs f).1 a) (unCount f 1 2))

def execMov (c : Nat) (f : UnForm) (s : State) : Out :=
  runCore s (unRunOf (.mov c f) c f) (movBody c f)

-- immediate forms (format RI, 4 bytes; LDIW format RL, 10 bytes)

def immRunOf (i : Instr) (c : Nat) (srcs dsts : List Nat) : Run :=
  ⟨c, some false, 4, none, Tm.alu srcs dsts, i.wf⟩

def immBody (c : Nat) (op : IOp) (rd ra : Reg) (imm : BitVec 14) (s : State) : Except Stop Done := do
  let a ← rdG s c ra
  intOperands a (fix 0)
  let s ← intResult s c rd (intRes op a.pay (imm.signExtend 64))
  .ok (Done.of s 1)

def execAddi (c : Nat) (rd ra : Reg) (imm : BitVec 14) (s : State) : Out :=
  runCore s (immRunOf (.addi c rd ra imm) c [ra.val] [rd.val]) (immBody c .add rd ra imm)
def execShli (c : Nat) (rd ra : Reg) (imm : BitVec 14) (s : State) : Out :=
  runCore s (immRunOf (.shli c rd ra imm) c [ra.val] [rd.val]) (immBody c .shl rd ra imm)
def execShri (c : Nat) (rd ra : Reg) (imm : BitVec 14) (s : State) : Out :=
  runCore s (immRunOf (.shri c rd ra imm) c [ra.val] [rd.val]) (immBody c .shr rd ra imm)
def execSari (c : Nat) (rd ra : Reg) (imm : BitVec 14) (s : State) : Out :=
  runCore s (immRunOf (.sari c rd ra imm) c [ra.val] [rd.val]) (immBody c .sar rd ra imm)
def execAndi (c : Nat) (rd ra : Reg) (imm : BitVec 14) (s : State) : Out :=
  runCore s (immRunOf (.andi c rd ra imm) c [ra.val] [rd.val]) (immBody c .and rd ra imm)
def execOri (c : Nat) (rd ra : Reg) (imm : BitVec 14) (s : State) : Out :=
  runCore s (immRunOf (.ori c rd ra imm) c [ra.val] [rd.val]) (immBody c .or rd ra imm)
def execXori (c : Nat) (rd ra : Reg) (imm : BitVec 14) (s : State) : Out :=
  runCore s (immRunOf (.xori c rd ra imm) c [ra.val] [rd.val]) (immBody c .xor rd ra imm)

def cmpiBody (c : Nat) (ra : Reg) (imm : BitVec 14) (s : State) : Except Stop Done := do
  let a ← rdG s c ra
  intOperands a (fix 0)
  .ok (Done.of (setCc s c (cmpCc a.pay.toInt imm.toInt)) 1)

def execCmpi (c : Nat) (ra : Reg) (imm : BitVec 14) (s : State) : Out :=
  runCore s (immRunOf (.cmpi c ra imm) c [ra.val] [64]) (cmpiBody c ra imm)

def execLdi (c : Nat) (rd : Reg) (imm : BitVec 14) (s : State) : Out :=
  runCore s (immRunOf (.ldi c rd imm) c [] [rd.val]) fun s =>
    .ok (Done.of (wrG s c rd (fix (imm.signExtend 64))) 1)

def execLdiw (c : Nat) (rd : Reg) (imm : Word) (s : State) : Out :=
  runCore s ⟨c, some false, 10, none, Tm.alu [] [rd.val], (Instr.ldiw c rd imm).wf⟩ fun s =>
    .ok (Done.of (wrG s c rd (fix imm)) 1)

end Sys2Proof.Machine
end

