-- ==== Sys2Proof/Machine/Branch.lean ====
section
/-! DEFINITION. Branches (R143, R150), MFSR and MTSR (R101, R142), BCT. -/

namespace Sys2Proof.Machine

/-- R143: an immutable CODE pointer, generation 0, to the next instruction. -/
def linkWord (s : State) (c len : Nat) : TWord := ptr 10 true ((curBank s c).ia.toNat + len)

/-- R143: the target of a relative branch. -/
def relTarget (s : State) (c : Nat) (d : Int) : Except Stop Addr := do
  let a ← inSpace 1 ((curBank s c).ia.toNat + d)
  .ok (BitVec.ofNat 40 a)

def branchTo (s : State) (cnt : Nat) (a : Addr) : Done := { Done.of s cnt with next := some a, isBranch := true }

/-- R143: the bit of MASK for the current CC. -/
def maskTaken (s : State) (c : Nat) (mask : BitVec 4) : Bool := bit mask (3 - (curBank s c).cc)

/-- R143: BRC. A branch target accesses no word: a post-increment or pre-decrement operand of BRC, BRL and BCT moves
by 8 (log entry 120). -/
def brcBody (c : Nat) (f : BrcForm) (s : State) : Except Stop Done := do
  match f with
  | .rel mask d =>
    if maskTaken s c mask then
      let t ← relTarget s c d.toInt
      .ok (branchTo s 3 t)
    else .ok { Done.of s 1 with isBranch := true }
  | .sto mask m =>
    let e ← targetSto s c 1 m
    if maskTaken s c mask then
      .ok (branchTo (applySides s c [e]) (4 + memCost (.sto m)) (BitVec.ofNat 40 e.a))
    else .ok (Done.of (applySides s c [e]) (2 + memCost (.sto m)))

def execBrc (c : Nat) (f : BrcForm) (s : State) : Out :=
  match f with
  | .rel mask d =>
    runCore s ⟨c, some false, 4, none, Tm.pipe [64] [], (Instr.brc c (.rel mask d)).wf⟩ (brcBody c (.rel mask d))
  | .sto mask m =>
    runCore s ⟨c, some true, 2 + memBytes (.sto m), memUnd 2 (.sto m), Tm.core (64 :: memSrcs (.sto m)),
      (Instr.brc c (.sto mask m)).wf⟩ (brcBody c (.sto mask m))

/-- R143: BRL; the step of its operand is that of log entry 120. -/
def brlBody (c : Nat) (f : BrlForm) (s : State) : Except Stop Done := do
  match f with
  | .rel d =>
    let t ← relTarget s c d.toInt
    .ok (branchTo (wrG s c 31 (linkWord s c 4)) 3 t)
  | .sto rd m =>
    let e ← targetSto s c 1 m
    let l := linkWord s c (2 + memBytes (.sto m))
    .ok (branchTo (applySides (wrG s c rd l) c [e]) (4 + memCost (.sto m)) (BitVec.ofNat 40 e.a))

def execBrl (c : Nat) (f : BrlForm) (s : State) : Out :=
  match f with
  | .rel d => runCore s ⟨c, some false, 4, none, Tm.pipe [] [31], (Instr.brl c (.rel d)).wf⟩ (brlBody c (.rel d))
  | .sto rd m =>
    runCore s ⟨c, some true, 2 + memBytes (.sto m), memUnd 2 (.sto m), Tm.core (memSrcs (.sto m)),
      (Instr.brl c (.sto rd m)).wf⟩ (brlBody c (.sto rd m))

/-- R143: JMP and JMPL need a CODE pointer. -/
def jmpBody (c : Nat) (ra : Reg) (link : Bool) (s : State) : Except Stop Done := do
  let w ← rdG s c ra
  if tagClass w ≠ 10 then tagMismatch 1 w
  else
    let s1 := if link then wrG s c 31 (linkWord s c 3) else s
    .ok (branchTo s1 4 (BitVec.ofNat 40 (fld w.pay 39 0)))

def execJmp (c : Nat) (ra : Reg) (s : State) : Out :=
  runCore s ⟨c, some false, 3, none, Tm.pipe [ra.val] [], (Instr.jmp c ra).wf⟩ (jmpBody c ra false)
def execJmpl (c : Nat) (ra : Reg) (s : State) : Out :=
  runCore s ⟨c, some false, 3, none, Tm.pipe [ra.val] [31], (Instr.jmpl c ra).wf⟩ (jmpBody c ra true)

-- special registers

/-- R142: the value of special register `k`: 0 CT, 1 XB, 2 XA, 3 XC, 4 PS, 5 TE, 6 FL. -/
def sprRead (s : State) (c k : Nat) : Word :=
  let b := curBank s c
  match k with
  | 0 => b.ct
  | 1 => b.xb.setWidth 64
  | 2 => b.xa
  | 3 => b.xc
  | 4 => b.ps
  | 5 => teRead s c
  | _ => b.fl

/-- Bits of each special register that are not reserved (R95, R96, R99, R100). -/
def sprMask (k : Nat) : Word :=
  match k with
  | 0 => 0xFFFFFFFFFFFFFFFF
  | 1 => 0xFFFFFF
  | 2 => 0xFFFFFFFFFF
  | 3 => 0xFFFFFFFFFFFF
  | 4 => 0xFFF000
  | 5 => 0xFFF
  | _ => 0x3FF

/-- A write of a special register by its access codes; DTRAP_LOCK keeps DCO and DCD (R97). -/
def sprWrite (s : State) (c k : Nat) (v : Word) : State :=
  let b := curBank s c
  match k with
  | 0 => setBank s c { b with ct := v }
  | 1 => setBank s c { b with xb := v.setWidth 24 }
  | 2 => setBank s c { b with xa := v }
  | 3 => setBank s c { b with xc := v }
  | 4 => setBank s c { b with ps := setFld b.ps 15 13 (fld v 15 13) }
  | 5 =>
    let v := if s.prot.dtrap && 2 ≤ b.priv then (v &&& 0xFFFFFFFFFFFFFFE7) ||| (b.te &&& 0x18) ||| (v &&& 0x18) else v
    setBank s c { b with te := v }
  | _ => setBank s c { b with fl := b.fl &&& ~~~v }

/-- Offset of the byte that makes a special-register code reserved (R142). -/
def sprUnd (code : Nat) : Option Nat := if 7 ≤ code then some 1 else none

def execMfsr (c : Nat) (f : UnForm) (s : State) : Out :=
  let rd := (unRegs f).1
  let k := (unRegs f).2.val
  runCore s ⟨c, some (unStorage f), if unStorage f then 2 else 3,
      if 8 ≤ k then some 1 else if k = 7 then some (if unStorage f then 1 else 2) else none, Tm.core [], (Instr.mfsr c f).wf⟩ fun s =>
    .ok (Done.of (wrG s c rd (fix (sprRead s c k))) (if unStorage f then 3 else 2))

/-- R101: a move into a special register, of a word tagged FIX or RAW, or of any word into XA and XC, where POISON alone
is refused (R163, log entry 145); R13 refuses a write that sets a reserved bit. -/
def mtsrBody (c k : Nat) (ra : Reg) (cnt : Nat) (s : State) : Except Stop Done := do
  let w ← rdG s c ra
  if (k = 2 ∨ k = 3) ∧ 2 ≤ (curBank s c).priv then raise 2 0 0
  else if k = 2 ∨ k = 3 then
    if isPoison w then poisonUse w
    else if w.pay &&& ~~~(sprMask k) ≠ 0 then .ok (Done.of (refuse s) cnt)
    else .ok (Done.of (sprWrite s c k w.pay) cnt)
  else if !isInt w then tagMismatch 1 w
  else if w.pay &&& ~~~(sprMask k) ≠ 0 then .ok (Done.of (refuse s) cnt)
  else .ok (Done.of (sprWrite s c k w.pay) cnt)

def execMtsr (c : Nat) (f : UnForm) (s : State) : Out :=
  let k := (unRegs f).1.val
  let ra := (unRegs f).2
  runCore s ⟨c, some (unStorage f), if unStorage f then 2 else 3, sprUnd k, Tm.core [ra.val],
      (Instr.mtsr c f).wf⟩ (mtsrBody c k ra (if unStorage f then 5 else 4))

/-- R150: BCT; the step of its operand is that of log entry 120. -/
def bctBody (c : Nat) (rd : Reg) (m : SMem) (s : State) : Except Stop Done := do
  let w ← rdG s c rd
  if isPoison w then poisonUse w
  else if !isInt w then tagMismatch 1 w
  else
    let e ← targetSto s c 2 m
    let v := w.pay - 1
    let s1 := applySides (wrG s c rd (fix v)) c [e]
    if v ≠ 0 then .ok (branchTo s1 (5 + memCost (.sto m)) (BitVec.ofNat 40 e.a))
    else .ok (Done.of s1 (3 + memCost (.sto m)))

def execBct (c : Nat) (rd : Reg) (m : SMem) (s : State) : Out :=
  runCore s ⟨c, some true, 2 + memBytes (.sto m), memUnd 2 (.sto m), Tm.core (memSrcs (.sto m)) [rd.val],
    (Instr.bct c rd m).wf⟩ (bctBody c rd m)

end Sys2Proof.Machine
end

