-- ==== Sys2Proof/Machine/Protect.lean ====
section
/-! DEFINITION. Writes of the protection tables and of DCFG (R13, R97, R98, R357 to R371). -/

namespace Sys2Proof.Machine

/-- Why a register write is refused (R13, R532): because of the value alone, of the device's state, or, for
a shadow region entry, by a condition of R366 of either kind. -/
inductive Refusing where
  | value | state
  | region (state : Bool)
  deriving DecidableEq, Repr

/-- A register write: refused, or the state it leaves. -/
abbrev Written := Except Refusing State

/-- R532: the SDO abort code of a refusal. -/
def Refusing.abort : Refusing → Nat
  | .value | .region false => 0x06090030
  | .state | .region true => 0x08000022

/-- R13, R366: a refused write is counted. -/
def refuseBy (s : State) : Refusing → State
  | .region _ => bump (refuse s) 0x4000 2
  | _ => refuse s

/-- R13: what a register write leaves. -/
def settleWrite (s : State) (w : Written) : State :=
  match w with
  | .ok t => t
  | .error e => refuseBy s e

/-- R501: a register command comes through the steward's mailbox, which wakes the device (log entry 131). -/
def mailed (s : State) : State := stir s 0x0C

/-- A register write of a device in service. -/
def registerCommand (s : State) (w : State → Written) : Out :=
  if alive s then .next (settleWrite (mailed s) (w (mailed s))) else .next s

-- the key table

/-- R357: reserved bits of an entry. -/
def keyOkByte (b : Byte) : Bool := fld b 2 0 = 0

/-- R360: entries of the key table. -/
def keyEntries : Nat := 4194304

/-- R359: entries from `b` on take the bytes of a store. -/
def keyWrite (s : State) (b : Nat) (bs : List Byte) : Written :=
  if !bs.all keyOkByte || keyEntries < b + bs.length then .error .value
  else if s.prot.filling.isSome then .error .state
  else .ok { s with prot := { s.prot with keys := tblit 0 s.prot.keys b bs } }

/-- R359: KEY_TABLE_WRITE; ST1 takes the low byte of the register, ST8 an aligned FIX or RAW word. -/
def execKeyTableWrite (b : Nat) (eight : Bool) (w : TWord) (s : State) : Out :=
  registerCommand s fun s => (if !eight then keyWrite s b [w.pay.setWidth 8]
    else if b % 8 = 0 && isInt w then keyWrite s b (wordBytes w.pay)
    else .error .value)

/-- R360: KFILL. -/
def kfillWrite (s : State) (v : Word) : Written :=
  if fld v 62 52 ≠ 0 then .error .value
  else if !bit v 63 then .ok { s with prot := { s.prot with kfill := v } }
  else if keyEntries ≤ fillFirst v + fld v 29 8 || !keyOkByte (fillValue v) then .error .value
  else if s.prot.filling.isSome then .error .state
  else .ok { s with prot := { s.prot with kfill := v, filling := some (s.now, v) } }

def execKfill (v : Word) (s : State) : Out := registerCommand s fun s => kfillWrite s v

/-- R360: what KFILL reads. -/
def kfillRead (s : State) : Word := setFld s.prot.kfill 63 63 (b2n s.prot.filling.isSome)

/-- R360: every entry of a fill holds its value. -/
def fillKeys (p : Prot) (v : Word) : Prot :=
  { p with
    keys := tblit 0 p.keys (fillFirst v) (List.replicate (fillCount v) (fillValue v))
    filling := none }

/-- R360: KFILL_COMPLETE, 64 entries a cycle. -/
def execKfillComplete (s : State) : Out :=
  match s.prot.filling with
  | some (t, v) =>
    if alive s then
      .next { passTo s (t + (1 + (fillCount v - 1) / 64) * cyc) with prot := fillKeys s.prot v }
    else .next s
  | none => .next s

-- the region table

/-- R361: reserved bits and encodings of REGA and REGB. -/
def regaOk (v : Word) : Bool :=
  fld v 62 61 < 2 && (fld v 62 61 = 1 || fld v 60 55 = 0) && fld v 54 50 = 0 && fld v 43 40 = 0 && fld v 7 0 = 0
def regbOk (v : Word) : Bool := fld v 63 56 = 0 && fld v 7 0 = 0

/-- First address of an entry and the first beyond it. -/
def regLo (ra : Word) : Nat := fld ra 39 8 * 256
def regHi (rb : Word) : Nat := fld rb 39 8 * 256

/-- R362: the entry is one of DRAM. -/
def regDram (s : State) (rb : Word) : Bool := regHi rb ≤ dramBytes s.part

/-- R362: the entry lies in the own-cell window. -/
def regCell (ra rb : Word) : Bool := 0xFE00000000 ≤ regLo ra && regHi rb ≤ 0xFE00000000 + cellBytes

/-- R366: conditions 1 to 4. -/
def entryOk (s : State) (ra rb : Word) : Bool :=
  regLo ra < regHi rb && (regDram s rb || regCell ra rb) &&
  (!regDram s rb || (!bit ra 49 && !bit ra 48 && fld ra 47 44 = 0)) &&
  (fld ra 62 61 = 0 || fld ra 60 55 < ratedCells s.part.variant)

/-- R366 condition 5: two scopes share a cell or the stewards' accesses. -/
def scopesMeet (a b : Word) : Bool := fld a 62 61 = 0 || fld b 62 61 = 0 || fld a 60 55 = fld b 60 55

/-- Two ranges share an address. -/
def meets (l1 h1 l2 h2 : Nat) : Bool := l1 < h2 && l2 < h1 && l1 < h1 && l2 < h2

/-- R366 condition 5, for entry `n` against the other valid ones of the shadow. -/
def entryAlone (s : State) (n : Nat) (ra rb : Word) : Bool :=
  s.prot.shA.all fun e =>
    e.1 = n || !bit e.2 63 || !scopesMeet e.2 ra ||
    !meets (regLo ra) (regHi rb) (regLo e.2) (regHi (tget 0 s.prot.shB e.1))

/-- The sealed ranges of DRAM. -/
def dramSeals (p : Prot) : List (Nat × Nat) :=
  (if p.jsealOn then [jsealRange p.jseal] else []) ++
  (match p.ringMove with | some (old, _) => old.map jsealRange | none => []) ++
  (if p.fsealOn then [fsealRange p.fseal] else [])

/-- R366 condition 6. -/
def entryClear (s : State) (ra rb : Word) : Bool :=
  (dramSeals s.prot).all fun r => !meets (regLo ra) (regHi rb) r.1 (r.1 + r.2)

/-- R366, R367: a word of a shadow entry. -/
def regionWrite (s : State) (n : Nat) (regb : Bool) (v : Word) : Written :=
  let ra := if regb then tget 0 s.prot.shA n else v
  let rb := if regb then v else tget 0 s.prot.shB n
  if !(if regb then regbOk v else regaOk v) then .error .value
  else if bit ra 63 && !entryOk s ra rb then .error (.region false)
  else if s.prot.pend then .error .state
  else if bit ra 63 && !(entryAlone s n ra rb && entryClear s ra rb) then .error (.region true)
  else .ok { s with prot :=
    if regb then { s.prot with shB := tput 0 s.prot.shB n v } else { s.prot with shA := tput 0 s.prot.shA n v } }

/-- R366: REGION_SHADOW_WRITE; an aligned ST8 of a FIX or RAW word. -/
def execRegionShadowWrite (n : Nat) (regb : Bool) (w : TWord) (s : State) : Out :=
  registerCommand s fun s => if isInt w then regionWrite s n regb w.pay else .error .value

/-- R367: what REPOCH reads. -/
def repochRead (s : State) : Word := BitVec.ofNat 64 (s.prot.epoch % 2 ^ 32 * 2 ^ 32 + 2 * b2n s.prot.pend)

/-- R19: a frame of the mesh has 64 slots of 8 cycles. -/
def meshSlots : Nat := 64
def slotPs : Nat := 8 * cyc
def framePs : Nat := meshSlots * slotPs

/-- R19: logical cell n owns slot n of every frame: the cell whose slot it is at time `t` (log entry 106). -/
def slotOwner (t : Nat) : Nat := t / slotPs % meshSlots

/-- R367: the first mesh frame (R19) that begins after now. DESIGN CHOICE (log entry 134): R19 gives frames no origin; the
model's begin at multiples of 512 cycles of `now`, through every reset. -/
def nextFrame (s : State) : Nat := (s.now / framePs + 1) * framePs

/-- R367: a write of REPOCH. -/
def repochWrite (s : State) (v : Word) : Written :=
  if fld v 31 2 ≠ 0 then .error .value
  else if !bit v 0 || s.prot.pend then .ok s
  else .ok { s with prot := { s.prot with pend := true, pendAt := nextFrame s } }

def execRepochCommit (v : Word) (s : State) : Out := registerCommand s fun s => repochWrite s v

/-- R367: EPOCH_BOUNDARY; the shadow becomes the active table. -/
def execEpochBoundary (s : State) : Out :=
  if alive s && s.prot.pend then
    .next { passTo s s.prot.pendAt with prot := { s.prot with
      actA := s.prot.shA, actB := s.prot.shB, epoch := s.prot.epoch + 1, pend := false } }
  else .next s

-- sealed ranges

/-- R371: a valid entry of a region table shares an address with the range. -/
def regionMeets (ta tb : Tbl Word) (r : Nat × Nat) : Bool :=
  ta.any fun e => bit e.2 63 && meets (regLo e.2) (regHi (tget 0 tb e.1)) r.1 (r.1 + r.2)

/-- R371: the range overlaps a valid entry of the active or shadow table. -/
def regionsMeet (s : State) (r : Nat × Nat) : Bool :=
  regionMeets s.prot.actA s.prot.actB r || regionMeets s.prot.shA s.prot.shB r

/-- R40, R371: no transaction is accepted. -/
def noneAccepted (s : State) : Bool :=
  (openTx s).isEmpty && !(s.adm.reqs.any fun r => r.plan.isSome)

/-- R371: the records and the system reserve fit in a ring of the size. -/
def ringFits (s : State) (size : Nat) : Bool := ringUsed s + 0x100000 ≤ size

/-- R371: a copy takes 1 ms for each 64 MiB of records. -/
def moveDue (s : State) : Nat := s.now + cdiv (ringUsed s) 0x4000000 * milli

/-- R371: JSEAL. -/
def jsealSet (s : State) (v : Word) : Written :=
  let r := jsealRange v
  if fld v 63 49 ≠ 0 || fld v 28 0 ≠ 0 || fld v 48 40 < 1 || 32 < fld v 48 40 || dramBytes s.part < r.1 + r.2 then
    .error .value
  else if (s.prot.fsealOn && meets r.1 (r.1 + r.2) (fsealRange s.prot.fseal).1 ((fsealRange s.prot.fseal).1 + (fsealRange s.prot.fseal).2)) ||
      regionsMeet s r || !noneAccepted s then .error .state
  else if !s.prot.jsealOn then .ok (openStream { s with prot := { s.prot with jseal := v, jsealOn := true } })
  else if !ringFits s r.2 then .error .state
  else .ok { s with prot := { s.prot with
    jseal := v
    ringMove := some (s.prot.jseal :: (match s.prot.ringMove with | some (old, _) => old | none => []), moveDue s) } }

def execJsealWrite (v : Word) (s : State) : Out := registerCommand s fun s => jsealSet s v

/-- R371: the unreclaimed records lie from the start of the new ring on, each stream in SEQ order. -/
def copyRing (s : State) : State :=
  let keep := s.jrn.ring.filter (unreclaimed s)
  let s := { s with jrn := { s.jrn with ring := s.jrn.ring.filter fun r => !unreclaimed s r, tail := 0 } }
  keep.foldl (fun t r => writeRing (intoRing t r) { r with place := t.jrn.tail }) s

/-- R371: RING_MOVE_COMPLETE; the old ranges are unsealed. -/
def execRingMoveComplete (s : State) : Out :=
  match s.prot.ringMove with
  | some (_, t) =>
    if alive s then
      let s1 := copyRing (passTo s t)
      .next (openStream (fillUpdate { s1 with prot := { s1.prot with ringMove := none } }))
    else .next s
  | none => .next s

/-- R371: FSEAL, locked by its first write. -/
def fsealSet (s : State) (v : Word) : Written :=
  let r := fsealRange v
  if fld v 63 40 ≠ 0 || fld v 19 0 ≠ 0 || dramBytes s.part < r.1 + r.2 then .error .value
  else if s.prot.fsealOn || regionsMeet s r ||
      (dramSeals s.prot).any (fun q => meets r.1 (r.1 + r.2) q.1 (q.1 + q.2)) then .error .state
  else .ok { s with prot := { s.prot with fseal := v, fsealOn := true } }

def execFsealWrite (v : Word) (s : State) : Out := registerCommand s fun s => fsealSet s v

-- DCFG

/-- R98: DCFG, locked by its first write. -/
def dcfgSet (s : State) (v : Word) : Written :=
  if fld v 63 1 ≠ 0 then .error .value
  else if s.prot.dcfgLocked then .error .state
  else .ok { s with prot := { s.prot with dtrap := bit v 0, dcfgLocked := true } }

def execDcfgWrite (v : Word) (s : State) : Out := registerCommand s fun s => dcfgSet s v

end Sys2Proof.Machine
end

