-- ==== Sys2Proof/Machine/Faults.lean ====
section
/-! DEFINITION. Reactions of the Barometer (R442, R445), lane loss and sparing (R449 to R451), scrubs (R447,
R448), safety inputs (R453 to R456), supplies, clocks and temperature (R558, R560, R564). -/

namespace Sys2Proof.Machine

/-- The Barometer acts: the device is powered and not already silent (R453, R454). -/
def guarded' (s : State) : Bool := s.phase ≠ .held && s.phase ≠ .silent

/-- The block that a fault code and its DETAIL name (log entry 25). -/
def blockOf (code : Nat) (detail : Word) : Nat := Config.blockIndex code detail % 256

def day : Nat := 86400 * second

-- class X

/-- R442, R344: the context `n` freezes with MACHINE_CHECK at the instruction at which it stands. -/
def machineCheck (s : State) (n info : Nat) : State :=
  let x := getCtx s n
  let e : Pend := ⟨if x.started then (x.bankOf x.level).ia else x.sel.entry, 0x1E, info, 0, false, false⟩
  if !inLedger x then s
  else if (getCore s x.lane).running = some n then freeze s x.lane e
  else freezeCtx s n e

/-- R442: the instruction of a core that runs no context raises MACHINE_CHECK; it is pending. -/
def ownCheck (s : State) (c info : Nat) : State :=
  let k := getCore s c
  setCore s c { k with exc := some (k.exc.getD ⟨k.own.ia, 0x1E, info, 0, false, false⟩) }

/-- R442: what a class X fault concerns: a context, or the code that a core runs without one. -/
def checkAt (s : State) (w : FaultAt) (info : Nat) : State :=
  match w with
  | .nothing => s
  | .record n => machineCheck s n info
  | .core c => (match (getCore s c).running with | some n => machineCheck s n info | none => ownCheck s c info)

-- class L

/-- R449 step 3: a transaction of the faulty lane ends as ABORTED_FAULT x00F2. -/
def abortOn (s : State) (n : Nat) : State := endTx s n .ending 2 0xF2 []

/-- R449: requests decided onto a cell and not yet released are decided again. -/
def redecide (s : State) (cell : Nat) : State :=
  let hit := fun (r : Request) =>
    r.st = .decided && (match r.plan with | some x => x.lane / 4 = cell | none => false)
  (s.adm.reqs.filter hit).foldl (fun t r =>
    let t1 := putRq t r { r with dec := .none, plan := none, st := .queued }
    let d := checks (withPlans t1) r (squalled t1 r)
    putRq t1 { r with dec := .none, plan := none, st := .queued } { r with dec := d.1, plan := d.2 }) s

/-- The class L events of the physical cell that carries a logical cell. -/
def cellEvents (s : State) (n : Nat) : List CellEvent := tget [] s.baro.events (getCell s n).phys
def setEvents (s : State) (n : Nat) (es : List CellEvent) : State :=
  { s with baro := { s.baro with events := tset s.baro.events (getCell s n).phys es } }

/-- R449 step 2: a cell leaves eligibility, for test or sparing; the event is of its core `core`. -/
def drainCell (s : State) (n core code : Nat) : State :=
  let x := getCell s n
  let s := setEvents s n (⟨s.now, code, core, true⟩ :: (cellEvents s n).filter fun e => s.now < e.at' + day)
  setCell s n { x with svc := if x.svc = .lost then .lost else .drained }

/-- R449: the core stops, its cell is drained, the work of its lane is aborted. -/
def laneLoss (s : State) (c code : Nat) : State :=
  let n := c / 4
  let s := drainCell s n (c % 4) code
  let s := (s.ctxs.filter fun e => inLedger e.2 && e.2.lane = c).foldl (fun t e => abortOn t e.1) s
  let s := dropRunning s c
  redecide (setCore s c { getCore s c with dead := true, sb := [], stgFly := none }) n

/-- R442: a class L fault. -/
def laneFault (s : State) (c code : Nat) (detail : Word) : State :=
  laneLoss (alert (logFault s code 3 1 c detail) code 3 1 c) c code

/-- The core that a fault concerns: that of the instruction or context, else the one that SOURCE names. -/
def laneOf (s : State) (w : FaultAt) (kind idx : Nat) : Option Nat :=
  match w with
  | .core c => some c
  | .record n => some (getCtx s n).lane
  | .nothing => if kind = 1 then some idx else if kind = 3 then some (256 + idx) else none

/-- R445 code x03: the logical cell whose physical cell the event is in; none in the context store. -/
def flipCell (w : FaultAt) (kind idx : Nat) : Option Nat :=
  if kind = 2 then some idx
  else if kind = 1 then some (idx / 4)
  else match w with
    | .core c => cellOf c
    | _ => none

/-- R442: a class L fault of a core. A steward core, or a source that is no core, has no lane: the fault is logged and
raises the alert (log entry 118). -/
def coreFault (s : State) (lane : Option Nat) (code kind idx : Nat) (detail : Word) : State :=
  match lane with
  | some c =>
    if c < 256 then laneFault s c code detail
    else alert (logFault s code 3 kind idx detail) code 3 kind idx
  | none => alert (logFault s code 3 kind idx detail) code 3 kind idx

/-- R445 code x04: a code x03 event in a physical cell with two or more in the 24 h before it. Where no core of the cell
made the read, the cell is drained and no lane is aborted (log entry 118). -/
def flipEvent (s : State) (w : FaultAt) (kind idx : Nat) (detail : Word) : State :=
  match flipCell w kind idx with
  | none => s
  | some n =>
    let p := (getCell s n).phys
    let recent := (tget [] s.baro.flips p).filter fun t => s.now < t + day
    let s1 := { s with baro := { s.baro with flips := tset s.baro.flips p (s.now :: recent) } }
    let drained := drainCell (alert (logFault s1 4 3 2 n detail) 4 3 2 n) n 0 4
    if recent.length < 2 then s1
    else match laneOf s1 w kind idx with
      | some c => if c < 256 && c / 4 = n then laneFault s1 c 4 detail else drained
      | none => drained

/-- The raw transition times of an input are replaced. -/
def setRaw (b : Baro) (i : Nat) (ts : List Nat) : Baro :=
  if i = 0 then { b with raw0 := ts } else if i = 1 then { b with raw1 := ts } else { b with raw2 := ts }

/-- R455: FORCE_SAFE_N is asserted after its filter. -/
def forceSafe (s : State) : State := silentFault s 0x16 6 0 0

/-- R443: the CHAT bit of an input: FORCE_SAFE_N [7], PAIR_HB_IN [6], SYSRST_N [5] of BSTAT. -/
def chatBit (i : Nat) : Nat := 2 - i

/-- R456: chatter is latched; FORCE_SAFE_N then counts as asserted, PAIR_HB_IN as silent. -/
def latchChatter (s : State) (i : Nat) : State :=
  if bit s.baro.chat (chatBit i) then s
  else
    let s1 := { s with baro := { s.baro with chat := setFld s.baro.chat (chatBit i) (chatBit i) 1 } }
    let s1 := alertFault s1 0x15 6 i 0
    if i = 0 then forceSafe s1
    else if i = 1 && alive s1 && bit s1.pair.cfg 63 && s1.pair.hbp then
      judge { s1 with pair := { s1.pair with hbp := false } } false
    else s1

-- the table of R445

/-- R569: the INFO of MACHINE_CHECK that a fault of a code may carry. -/
def infoOk (code : Nat) (w : FaultAt) (info : Nat) : Bool :=
  match code, w with
  | _, .nothing => true
  | 0x02, _ => info = 0x31 || info = 0x32
  | 0x03, .core _ => info = 0x21 || info = 0x22 || info = 0x28
  | 0x03, .record _ => info = 0x21 || info = 0x23
  | 0x05, _ => info = 0x33 || info = 0x34
  | 0x07, _ => info = 0x27
  | 0x09, _ => info = 0x24
  | 0x0B, _ => info = 0x25 || info = 0x26
  | _, _ => true

/-- R371: the ring lies at `a`. -/
def inRing (s : State) (a : Nat) : Bool := s.prot.jsealOn && inRange (jsealRange s.prot.jseal) a

/-- R74, R445 code x08: the unreclaimed record of the own stream whose bytes hold `a`. -/
def ownRecAt (s : State) (a : Nat) : Option Rec :=
  let g := jsealRange s.prot.jseal
  if inRing s a then
    s.jrn.ring.find? fun r =>
      r.stream = ownStream s && unreclaimed s r &&
      decide ((a - g.1 + g.2 - r.place) % g.2 < recPad r.body.length)
  else none

/-- R445 code x08: an uncorrectable word of a record of the own stream; the drain halts there. -/
def recordLost (s : State) (r : Option Rec) (kind idx : Nat) (detail : Word) : State :=
  if pst s = .paired then silentFault s 8 kind idx detail
  else
    let s1 := alertFault s 8 kind idx detail
    match r with
    | some q => { s1 with jrn := { s1.jrn with halted := some q.seq } }
    | none => s1

/-- R445: a fault that a checker signals. -/
def react (s : State) (code kind idx : Nat) (detail : Word) (w : FaultAt) (info : Nat) : State :=
  let lx := fun (s : State) => checkAt (logFault s code 2 kind idx detail) w info
  let sil := silentFault s code kind idx detail
  let al := alertFault s code kind idx detail
  let lane := laneOf s w kind idx
  match code with
  | 0x01 | 0x04 => coreFault s lane code kind idx detail
  -- one event, logged once, as class L (log entry 75)
  | 0x02 | 0x05 => coreFault (checkAt s w info) lane code kind idx detail
  | 0x03 => flipEvent (lx s) w kind idx detail
  | 0x06 => bump (logFault s 6 1 kind idx detail) 0x4000 0x10
  | 0x07 => lx s
  | 0x08 => recordLost s (ownRecAt s detail.toNat) kind idx detail
  | 0x09 => if kind = 2 then lx s else sil
  | 0x0B => if w = .nothing then al else lx s
  | 0x12 => if 1350 < detail.toInt then sil else al
  | 0x15 => if kind = 6 && decide (idx < 3) then latchChatter s idx else al
  | 0x17 => mirrorLoss (logFault s 0x17 0 kind idx detail)
  | 0x18 => bump (logFault s 0x18 1 kind idx detail) 0x4003 (idx + 1)
  | 0x19 => al
  | 0x1A => { al with boot := { al.boot with dramOk := al.boot.dramOk && s.phase ≠ .rom } }
  | 0x0A | 0x0C | 0x0D | 0x0E | 0x0F | 0x10 | 0x11 | 0x13 | 0x14 | 0x16 => sil
  | _ => s

/-- R442: BAROMETER_FAULT; one whose INFO is no source of its code changes nothing (log entry 118). -/
def execBarometerFault (code kind index : Byte) (detail : Word) (at' : FaultAt) (info : Byte) (s : State) : Out :=
  if infoOk code.toNat at' info.toNat then
    .next (underGuard s fun s => react s code.toNat kind.toNat index.toNat detail at' info.toNat)
  else .next s

-- sparing

/-- R17, R450: physical cells; those that carry no logical cell and have not failed are spares. DESIGN CHOICE (log entry
135): R18 does not say which spare is taken; the model takes the lowest-numbered. -/
def spareCell (s : State) : Option Nat :=
  let used := (List.range (ratedCells s.part.variant)).map fun n => (getCell s n).phys
  let rated := ratedCells s.part.variant
  (List.range 66).find? fun q => rated ≤ q && !used.contains q && !s.baro.failed.contains q

/-- R450: the drained cell may be tested: a first code x01 or x05 event of its core within 24 h. -/
def testable (s : State) (n : Nat) : Bool :=
  let day' := (cellEvents s n).filter fun e => s.now < e.at' + day
  (day'.filter (·.isOpen)).all fun e =>
    (e.code = 1 || e.code = 5) && (day'.filter fun f => f.core = e.core).length ≤ 1

/-- The events of a cell are answered. -/
def closeEvents (s : State) (n : Nat) : State :=
  setEvents s n ((cellEvents s n).map fun e => { e with isOpen := false })

/-- The cores of a cell run again. -/
def reviveCores (s : State) (n : Nat) : State :=
  (List.range 4).foldl (fun t i => setCore t (4 * n + i) { getCore t (4 * n + i) with dead := false }) s

/-- Memory of a cell reads zero (R498). -/
def clearCellMem (s : State) (n : Nat) : State :=
  { s with mem := blit s.mem (winBase n) 0 (zeros cellBytes) }

/-- What a core still holds for memory reaches it. -/
def settleCore (s : State) (c : Nat) : State :=
  let far := (getCore s c).far.length
  drainAll ((List.range far).foldl (fun t _ => completeOldest t c .clean) s) c

/-- R494: a core loses its banks. -/
def coldCore (s : State) (c : Nat) : State :=
  let k := getCore (settleCore s c) c
  setCore (settleCore s c) c { Core.reset with dead := k.dead, freeAt := k.freeAt, sched := Sched.fresh (k.freeAt / cyc) }

/-- R494, R498: the banks of a cell hold nil. -/
def coldCell (s : State) (n : Nat) : State := (List.range 4).foldl (fun t i => coldCore t (4 * n + i)) s

/-- R450, R451, R498: the logical cell is mapped onto a spare, whose banks hold nil, or is lost. -/
def spareTo (s : State) (n : Nat) : State :=
  let s := closeEvents s n
  let x := getCell s n
  match spareCell s with
  | some q =>
    let s := { s with baro := { s.baro with failed := x.phys :: s.baro.failed } }
    reviveCores (clearCellMem (setCell (coldCell s n) n { x with
      phys := q, svc := .remap, rdy := false, heap := [], off := false, cur := 4
      exitAt := some (s.now + 100 * micro) }) n) n
  | none => setCell s n { x with svc := .lost }

/-- R450: CELL_SELF_TEST of a drained cell that holds no accepted transaction. -/
def execCellSelfTest (cell : Nat) (pass : Bool) (s : State) : Out :=
  let x := getCell s cell
  if alive s && x.svc = .drained && decide (cell < ratedCells s.part.variant) &&
     !(s.ctxs.any fun e => inLedger e.2 && e.2.lane / 4 = cell) then
    if testable s cell then
      let s1 := passTo s (s.now + 2 * milli)
      .next (if pass then reviveCores (setCell (closeEvents s1 cell) cell { x with svc := .ok, idleAt := s1.now }) cell
        else spareTo s1 cell)
    else .next (spareTo s cell)
  else .next s

-- watchdog, alerts

/-- R443, R445: the watchdog expires. -/
def watchdogOut (s : State) : State := silentFault s 0x0E 3 0 0

/-- R443: WDOG.KICK. -/
def execWatchdogKick (v : BitVec 16) (s : State) : Out :=
  if alive s then
    .next (if v = 0x5A3C then { s with baro := { s.baro with wdAt := some s.now } } else watchdogOut s)
  else .next s

/-- R443: the watchdog period ends; it stands still at Breeze and below. -/
def execWatchdogExpiry (s : State) : Out :=
  match s.baro.wdAt with
  | some t =>
    if alive s && s.pwr.cur = 0 then .next (watchdogOut (passTo s (t + s.baro.wdPeriod * milli))) else .next s
  | none => .next s

/-- R443, R527, R535: BALRT bits are cleared. The notice of an error reset has a code that the spec does not state (log
entry 132). -/
def clearAlerts (s : State) (mask : BitVec 32) : State :=
  let src := s.baro.src &&& ~~~ mask
  let s1 := { s with baro := { s.baro with src := src } }
  if s.baro.src ≠ 0 && src = 0 then
    notice (emcy (emit { s1 with free := s1.free + 1 } (.alert true)) 0 0 0 0) (Config.resetNotice s1.free).toNat
  else s1

def execBalrtClear (mask : BitVec 32) (s : State) : Out :=
  if alive s then .next (clearAlerts s mask) else .next s

-- scrubs

/-- R447: TABLE_SCRUB reads an entry; a bad one is code x0A or x0B. -/
def execTableScrub (bad : Option (Byte × Word)) (s : State) : Out :=
  match bad with
  | none => .next s
  | some (code, entry) =>
    .next (underGuard s fun s =>
      if code = 0x0A then silentFault s 0x0A 4 (blockOf 0x0A entry) entry
      else if code = 0x0B then alertFault s 0x0B 4 (blockOf 0x0B entry) entry
      else s)

/-- R448: an uncorrectable word that patrol scrub meets becomes POISON x4; it is of an unreclaimed own record, or
data. -/
def scrubDouble (s : State) (a : Nat) : State :=
  let s1 := { s with mem := wrWord s.mem a ⟨0xF4, BitVec.ofNat 64 a⟩ }
  match ownRecAt s a with
  | some r => recordLost s1 (some r) 4 (blockOf 8 (BitVec.ofNat 64 a)) (BitVec.ofNat 64 a)
  | none => dramReport s1 .double a

/-- R448: PATROL_SCRUB of the word at `addr`. -/
def execPatrolScrub (addr : Addr) (err : DramErr) (s : State) : Out :=
  let a := addr.toNat / 8 * 8
  if dramBytes s.part ≤ a then .next s
  else match err with
    | .clean => .next s
    | .single => .next (underGuard s fun s => dramReport s .single a)
    | .double => .next (underGuard s fun s => scrubDouble s a)

-- safety inputs

/-- R455: FORCE_SAFE_N after its filter. -/
def execForceSafeN (s : State) : Out :=
  if s.phase = .held then .next s else .next (underGuard (filtered s 0) forceSafe)

/-- R456: SAFETY_INPUT_RAW_TRANSITION; more than 64 within any 1 ms. -/
def execSafetyInputRawTransition (pin : Fin 3) (s : State) : Out :=
  if s.phase = .held then .next s
  else
    let ts := s.now :: (rawTimes s.baro pin.val).filter fun t => s.now < t + milli
    let s1 := { s with baro := setRaw s.baro pin.val (ts.take 65) }
    .next (if 64 < ts.length then latchChatter s1 pin.val else s1)

-- clocks and heat

/-- R445, R508, R567: REFCLK or TRNCLK is lost; in Frost REFCLK is missed at the wake. -/
def execClockLoss (clock : ClockLost) (s : State) : Out :=
  match clock with
  | .refclk back =>
    if s.pwr.cur = 4 && guarded' s then
      .next { s with pwr := { s.pwr with refLost := true, refBackAt := back.map fun t => s.now + t } }
    else .next (underGuard s fun s => silentFault s 0x10 4 (blockOf 0x10 0) 0)
  | .trnclk => .next (underGuard s fun s => silentFault s 0x10 4 (blockOf 0x10 0) 0)

/-- R445: the core clock is off by more than 1,000 ppm. -/
def execCoreClockDeviation (ppm : Nat) (s : State) : Out :=
  if 1000 < ppm then
    .next (underGuard s fun s => silentFault s 0x0F 4 (blockOf 0x0F (BitVec.ofNat 64 ppm)) (BitVec.ofNat 64 ppm))
  else .next s

/-- R445, R564: a thermal sensor of a cell reads `tenths` of a degree. -/
def execOverTemperature (cell : Nat) (tenths : Int) (s : State) : Out :=
  if s.phase = .held then .next s
  else
    let s1 := setCell s cell { getCell s cell with temp := tenths }
    .next (underGuard s1 fun s =>
      if 1350 < tenths then silentFault s 0x12 2 cell (BitVec.ofInt 64 tenths)
      else if 1250 < tenths then alertFault s 0x12 2 cell (BitVec.ofInt 64 tenths)
      else s)

end Sys2Proof.Machine
end

