-- ==== Sys2Proof/Machine/Resets.lean ====
section
/-! DEFINITION. Resets, supplies and start-up (R509 to R515, R554, R558, R567). -/

namespace Sys2Proof.Machine

/-- A fresh debug nonce (R490) or command nonce (R465). -/
def newDbgNonce (s : State) : State :=
  { s with free := s.free + 1, boot := { s.boot with dbgNonce := Config.freeNonce s.free } }
def newCmdNonce (s : State) : State :=
  { s with free := s.free + 1, baro := { s.baro with nonce := Config.freeNonce s.free } }

/-- SAFE_OUT_N is driven to a level. -/
def driveSafe (s : State) (high : Bool) : State :=
  if s.baro.safeOut = high then s else emit { s with baro := { s.baro with safeOut := high } } (.safeOut high)

/-- PAIR_HB_OUT is driven low (R553). -/
def dropHb (s : State) : State :=
  if s.pair.hbOut then emit { s with pair := { s.pair with hbOut := false } } (.pairHbOut false) else s

/-- ALERT_N follows the alerts. -/
def driveAlert (s : State) (was : BitVec 32) : State :=
  if was ≠ 0 && s.baro.src = 0 then emit s (.alert true) else s

/-- The fuses (R470), and the keys that the vault derives from them again (R483); none of a Retired part (R488). -/
def Boot.fuses (b : Boot) : Boot :=
  { Boot.reset with slots := b.slots, revoke := b.revoke, life := b.life, arb := b.arb, secret := b.secret, idKeys := b.life ≠ 4 }

/-- R509: a power-on reset is asserted and held; only the fuses are kept. The queue, the clock of the model
and the record of what left the device go on. -/
def powerReset (s : State) : State :=
  let t := driveMem (dropHb (driveSafe s false)) false .idle
  newCmdNonce (newDbgNonce (driveAlert { State.cleared s.part s.boot.fuses with
    pending := t.pending
    free := t.free
    now := t.now
    out := t.out
    pwr := { Power.reset s.part.variant with porst := s.pwr.porst, testen := s.pwr.testen, supplies := s.pwr.supplies, upAt := s.now } }
    s.baro.src))

/-- The memory without that of the cells. -/
def dramOnly (m : Memory) : Memory :=
  ⟨m.bytes.filter fun e => decide (e.1 < 0xF000000000), m.tags.filter fun e => decide (e.1 < 0x1E00000000)⟩

/-- R509: what the always-on domain keeps of the Barometer. -/
def baroKept (b : Baro) : Baro :=
  { b with
    boots := b.boots + 1
    wdAt := none
    mogFrames := 2000
    mogEmcy := 100
    frameTimes := []
    emcyTimes := [] }

/-- R509, R418, R510: what it keeps of the pair. -/
def pairKept (p : Pair) : Pair :=
  { Pair.reset with
    cfg := p.cfg, locked := p.locked, pserial := p.pserial, homemap := p.homemap, ownmap := p.homemap, adp := p.adp }

/-- R509, R511: ledger time runs on. -/
def timeKept (s : State) : LedgerTime :=
  { s.time with
    base := ledgerNow s, frac := timeFrac s, since := s.now, ppm := 0, left := 0, src := none, holdover := false, exch := []
    checked := ledgerNow s, checkAt := s.now, stepped := 0 }

/-- R456: while the chatter latch of FORCE_SAFE_N holds, the input counts as asserted. -/
def stillForced (s : State) : State := if bit s.baro.chat 2 then forceSafe s else s

/-- R509: a system reset; the boot ROM follows without the self-test. -/
def sysReset (s : State) : State :=
  let t := driveMem (dropHb (driveSafe s false)) false .idle
  let c := State.cleared s.part { s.boot.fuses with taint := s.boot.taint, sacc := s.boot.sacc }
  stillForced (romStart (newCmdNonce (newDbgNonce { c with
    pending := t.pending
    free := t.free
    now := t.now
    out := t.out
    mem := dramOnly s.mem
    time := timeKept s
    prot := { Prot.reset with fseal := s.prot.fseal, fsealOn := s.prot.fsealOn }
    nextSession := s.nextSession
    pair := pairKept s.pair
    baro := baroKept t.baro
    pwr := { c.pwr with
      porst := s.pwr.porst, testen := s.pwr.testen, supplies := s.pwr.supplies, upAt := s.pwr.upAt }
    mgmt := { Mgmt.reset with nodeId := s.mgmt.nodeId } })))

/-- R513, R554, R567: no cause holds the power-on reset. -/
def released (s : State) : Bool := !s.pwr.porst && !s.pwr.testen && decide (s.pwr.supplies = 0x7F)

/-- R515 step 1: the self-test starts once the power-on reset is let go. -/
def startUp (s : State) : State :=
  if s.phase = .held && released s then
    { s with phase := .selfTest, pwr := { s.pwr with selfTestAt := s.now + 2 * milli } }
  else s

/-- R509: POWER_ON_RESET; PORST_N is low. -/
def execPowerOnReset (s : State) : Out := .next (powerReset { s with pwr := { s.pwr with porst := true } })

/-- R515: PORST_N_RELEASE. -/
def execPorstNRelease (s : State) : Out := .next (startUp { s with pwr := { s.pwr with porst := false } })

/-- R567: SUPPLIES_IN_WINDOW, the last of them. -/
def execSuppliesInWindow (s : State) : Out := .next (startUp { s with pwr := { s.pwr with supplies := 0x7F } })

/-- R554, R567: TESTEN. -/
def execTesten (high : Bool) (s : State) : Out :=
  if high then .next (powerReset { s with pwr := { s.pwr with testen := true } })
  else .next (startUp { s with pwr := { s.pwr with testen := false } })

/-- R509: BAROMETER_SELF_TEST passes after 2 ms, and the boot ROM starts. -/
def execBarometerSelfTest (s : State) : Out :=
  if s.phase = .selfTest then .next (romStart (passTo s s.pwr.selfTestAt)) else .next s

/-- R509, R455, R456: SYSTEM_RESET, unless the chatter latch of SYSRST_N holds. -/
def execSystemReset (s : State) : Out :=
  if s.phase = .held || bit s.baro.chat 0 then .next s else .next (sysReset (filtered s 2))

/-- R445, R509, R558, R567: SUPPLY_OUT_OF_WINDOW; VAON, the third of R558, resets; the others are code x11. -/
def execSupplyOutOfWindow (supply : Fin 7) (s : State) : Out :=
  let s1 := { s with pwr := { s.pwr with supplies := setFld s.pwr.supplies supply.val supply.val 0 } }
  if supply.val = 2 then .next (powerReset s1)
  else .next (underGuard s1 fun s => silentFault s 0x11 7 supply.val 0)

end Sys2Proof.Machine
end

