-- ==== Sys2Proof/Machine/Time.lean ====
section
/-! DEFINITION. Time synchronisation and the time guard (R415, R458 to R461, R506, R508, R511). -/

namespace Sys2Proof.Machine

/-- The count that time messages are stamped with: ledger time once it runs, else nanoseconds since
power-on. -/
def localNs (s : State) : Nat := if s.time.running then ledgerNow s else s.now / 1000

/-- Ledger time restarts its count from now at another rate. -/
def rebase (s : State) (ppm : Int) : State :=
  { s with time := { s.time with base := ledgerNow s, frac := timeFrac s, since := s.now, ppm := ppm } }

/-- R415: ACTIVE sessions on ports with TSRC. -/
def timeSource (s : State) (p : Nat) : Bool := portActive s p && bit (getPort s p).pcfg 39

/-- R415: the lowest source is used. -/
def chosenSource (s : State) (p : Nat) : Bool :=
  timeSource s p && !((List.range p).any (timeSource s))

/-- R402, R415: a time message that is malformed: `good` says that it led its flit, on VC3, with its length. -/
def badTime (s : State) (p : Nat) (good : Bool) : Bool := !good || !portActive s p

/-- R415: the session of a port had a TSY taken less than 10 ms ago. -/
def tsySoon (s : State) (p : Nat) : Bool :=
  s.sessions.any fun y => y.id = (getPort s p).session &&
    (match y.tsyAt with | some t => decide (s.now < t + 10 * milli) | none => false)

/-- R415: TSY, at most one every 10 ms from a session. -/
def execTsy (p : Nat) (t1 seq : Word) (good : Bool) (s : State) : Out :=
  if romHears s p then .next (malformed s p)
  else if !(alive s && portUp s p) then .next s
  else if badTime s p good then .next (malformed s p)
  else if !chosenSource s p || tsySoon s p then .next s
  else
    let k := (getPort s p).session
    let e : TimeEx := ⟨p, k, t1.toNat, localNs s, none, seq, s.now⟩
    .next { s with
      sessions := s.sessions.map fun y => if y.id = k then { y with tsyAt := some s.now } else y
      time := { s.time with exch := s.time.exch ++ [e] } }

/-- R415: TDQ answers the oldest TSY of a port. -/
def execTdq (p : Nat) (s : State) : Out :=
  match s.time.exch.find? fun e => e.port = p && e.t3.isNone with
  | some e =>
    if alive s && canSend s p 3 8 then
      let s1 := sendOn s p 3 8 none (.tdq p e.seq)
      let e1 := { e with t3 := some (localNs s) }
      .next { s1 with time := { s1.time with exch := s1.time.exch.map fun f => if f = e then e1 else f } }
    else .next s
  | none => .next s

/-- R459, R445: an offset out of bounds raises an alert (log entry 34). -/
def offsetAlert (s : State) (off : Int) : State := alertFault s 0x13 4 (Config.blockIndex 0x13 (BitVec.ofInt 64 off) % 256) (BitVec.ofInt 64 off)

/-- R458: the limit of 100 ms in nanoseconds. -/
def offsetLimit : Int := 100000000

/-- R459, R511: the time guard applies an offset, or refuses it. -/
def applyOffset (s : State) (off : Int) (p : Nat) : State :=
  let s := { s with time := { s.time with last := off, src := some p } }
  if !s.time.running then
    if s.time.crystal then
      let b := ((localNs s : Int) - off).toNat
      openStream { s with time := { s.time with
        running := true, base := b, frac := 0, since := s.now, ppm := 0, left := 0, checked := b, checkAt := s.now, stepped := 0 } }
    else s
  else if off < 0 then
    if -offsetLimit ≤ off then
      let s1 := rebase s 200
      { s1 with time := { s1.time with left := off } }
    else offsetAlert s off
  else
    let s1 := rebase s (if off = 0 then 0 else -200)
    let s1 := { s1 with time := { s1.time with left := off } }
    if offsetLimit < off then offsetAlert s1 off else s1

/-- R415: TDR; the offset of the exchange goes to the time guard. -/
def execTdr (p : Nat) (t4 seq : Word) (good : Bool) (s : State) : Out :=
  if romHears s p then .next (malformed s p)
  else if !(alive s && portUp s p) then .next s
  else if badTime s p good then .next (malformed s p)
  else
    match s.time.exch.find? fun e => e.port = p && e.seq = seq && e.t3.isSome with
    | some e =>
      let t3 := e.t3.getD 0
      let off := (((e.t2 : Int) - e.t1) - ((t4.toNat : Int) - t3)).tdiv 2
      .next (applyOffset { s with time := { s.time with exch := s.time.exch.erase e } } off p)
    | none => .next s

/-- R459: SLEW_COMPLETE; 5,000 ns for each nanosecond of the offset. -/
def execSlewComplete (s : State) : Out :=
  if s.time.running && s.time.left ≠ 0 && s.time.ppm ≠ 0 then
    let s1 := rebase (passTo s (s.time.since + slewPs s.time)) 0
    .next { s1 with time := { s1.time with left := 0 } }
  else .next s

/-- R461: TIME_GUARD_CHECK, against the crystal's count in nanoseconds over the same interval. -/
def execTimeGuardCheck (crystalNs : Nat) (s : State) : Out :=
  if alive s && s.time.running then
    let s1 := passTo s (s.time.checkAt + second)
    let adv := ledgerNow s1 - s1.time.checked - s1.time.stepped
    let diff := ((adv : Int) - crystalNs).natAbs
    let s2 := { s1 with time := { s1.time with checked := ledgerNow s1, checkAt := s1.now, stepped := 0 } }
    .next (if 500 * crystalNs < diff * 1000000 then
      silentFault s2 0x13 4 (Config.blockIndex 0x13 (BitVec.ofNat 64 diff) % 256) (BitVec.ofNat 64 diff) else s2)
  else .next s

/-- R508: CRYSTAL_LOCK, or no lock within 1 s of the power-on reset (code x0F). -/
def execCrystalLock (locked : Bool) (s : State) : Out :=
  if s.phase = .held then .next s
  else if locked then .next { s with time := { s.time with crystal := true } }
  else if s.time.crystal then .next s
  else .next (underGuard (passTo s (s.pwr.upAt + second)) fun s => silentFault s 0x0F 4 (Config.blockIndex 0x0F 0 % 256) 0)

end Sys2Proof.Machine
end

