-- ==== Sys2Proof/Machine/Ladder.lean ====
section
/-! DEFINITION. The power ladder (R493 to R506): cell rungs, the warm reserve, device rungs, and their
registers. -/

namespace Sys2Proof.Machine

-- cells

/-- R495, R498: an accepted transaction is bound to the cell. -/
def cellHolds (s : State) (n : Nat) : Bool :=
  (s.ctxs.any fun e => inLedger e.2 && e.2.lane / 4 = n) ||
  (s.adm.reqs.any fun r => match r.plan with | some x => x.lane / 4 = n | none => false)

/-- R494, R498: the cell enters Frost. -/
def cellFrost (s : State) (n : Nat) : State :=
  let s := coldCell s n
  let x := getCell s n
  clearCellMem (setCell s n { x with
    cur := 4, off := true, rdy := false, exitAt := none, heap := []
    ccfg0 := (Cell.reset n).ccfg0, ccfg1 := (Cell.reset n).ccfg1 }) n

/-- R498: what CLADn reads. -/
def cladRead (s : State) (n : Nat) : Word :=
  let x := getCell s n
  if n < ratedCells s.part.variant then
    BitVec.ofNat 64 (x.cur * 2 ^ 60 + x.floor * 2 ^ 56 + b2n x.off * 2 ^ 55 + b2n x.rdy * 2 ^ 54)
  else 0

/-- R498: RDY and FLOOR of a write; a remapped cell is in service again once it is loaded (R450). -/
def cladFields (x : Cell) (v : Word) : Cell :=
  let r := bit v 54 && !bit v 55
  { x with
    floor := fld v 59 56
    rdy := r
    svc := if r && x.svc = .remap then .ok else x.svc }

/-- R498: a write of CLADn. -/
def cladWrite (s : State) (n : Nat) (v : Word) : Written :=
  let x := getCell s n
  if fld v 53 0 ≠ 0 || 3 < fld v 59 56 then .error .value
  else if ratedCells s.part.variant ≤ n then .error .state
  else if bit v 55 && !x.off && cellHolds s n then .error .state
  else
    let y := cladFields x v
    if bit v 55 then
      .ok (if x.off then setCell s n { y with rdy := false } else cellFrost (setCell s n y) n)
    else if x.off then .ok (setCell s n { y with off := false, exitAt := some (s.now + exitPs 4) })
    else .ok (setCell s n y)

def execCladOff (cell : Nat) (v : Word) (s : State) : Out := registerCommand s fun s => cladWrite s cell v
def execCladOn (cell : Nat) (v : Word) (s : State) : Out := registerCommand s fun s => cladWrite s cell v
def execCladRdy (cell : Nat) (v : Word) (s : State) : Out := registerCommand s fun s => cladWrite s cell v

/-- R496: idle cells, which the warm reserve ranks. -/
def idleCells (s : State) : List Nat :=
  (List.range (ratedCells s.part.variant)).filter fun n => !(getCell s n).off && !cellHolds s n

/-- R496: cells ranked before cell `n`: idle for a shorter time, or as long with a lower number. -/
def rankOf (s : State) (n : Nat) : Nat :=
  ((idleCells s).filter fun m =>
    (getCell s n).idleAt < (getCell s m).idleAt || ((getCell s n).idleAt = (getCell s m).idleAt && m < n)).length

/-- R496: the deepest rung that the floor and the warm reserve leave to a cell. -/
def cellLimit (s : State) (n : Nat) : Nat :=
  let r := rankOf s n
  min (getCell s n).floor (if r < s.pwr.wb then 1 else if r < s.pwr.wb + s.pwr.wd then 2 else 3)

/-- R496: idle time before a rung, ps. -/
def idleBefore (s : State) (rung : Nat) : Nat :=
  if rung = 2 then s.pwr.tdz * micro else if rung = 3 then s.pwr.tms * micro else 0

/-- R496: CELL_DESCENT, one rung at a time. -/
def execCellDescent (cell : Nat) (s : State) : Out :=
  let x := getCell s cell
  if alive s && (idleCells s).contains cell && x.exitAt.isNone && decide (x.cur < cellLimit s cell) then
    let s1 := passTo s (x.idleAt + idleBefore s (x.cur + 1))
    .next (setCell s1 cell { x with cur := x.cur + 1 })
  else .next s

/-- R494, R497, R498: WAKE; the cell's exit is complete. -/
def execWake (cell : Nat) (s : State) : Out :=
  let x := getCell s cell
  match x.exitAt with
  | some t =>
    if alive s then
      let s1 := passTo s t
      .next (setCell s1 cell { x with cur := 0, exitAt := none, idleAt := s1.now })
    else .next s
  | none => .next s

-- device ladder registers

/-- R503: what DLAD reads; BUSY while an entry is in progress. -/
def dladRead (s : State) : Word :=
  let p := s.pwr
  BitVec.ofNat 64 (p.cur * 2 ^ 60 + p.tgt * 2 ^ 56 + b2n p.entering.isSome * 2 ^ 55 + b2n p.fexit * 2 ^ 54 + p.wake.toNat * 2 ^ 40 + p.wsrc * 2 ^ 32 +
    b2n p.svc * 2 ^ 31)

/-- R500: TGT x3 and x4 need an unpaired or FENCED device; x4 a resume copy and an empty duplicate index. -/
def tgtOk (s : State) (t : Nat) : Bool :=
  t < 3 || ((!bit s.pair.cfg 63 || pst s = .fenced) && (t ≠ 4 || (s.pwr.frV && rowsUsed s = 0)))

/-- R503, R512: a write of DLAD; SAFE_OUT_N follows SVC. -/
def dladWrite (s : State) (v : Word) : Written :=
  if fld v 53 51 ≠ 0 || fld v 30 0 ≠ 0 || 4 < fld v 59 56 || (s.part.variant = .e && fld v 47 44 ≠ 0) then .error .value
  else if !tgtOk s (fld v 59 56) then .error .state
  else .ok (driveSafe { s with pwr := { s.pwr with
    tgt := fld v 59 56, wake := BitVec.ofNat 11 (fld v 50 40), svc := bit v 31 } } (bit v 31))

def execDladSvc (v : Word) (s : State) : Out := registerCommand s fun s => dladWrite s v

/-- R498: LRES. -/
def lresRead (s : State) : Word :=
  BitVec.ofNat 64 (s.pwr.wb * 2 ^ 56 + s.pwr.wd * 2 ^ 48 + s.pwr.tdz * 2 ^ 32 + s.pwr.tms * 2 ^ 16)

def lresWrite (s : State) (v : Word) : Written :=
  let tdz := fld v 47 32
  let tms := fld v 31 16
  if fld v 15 0 ≠ 0 || ratedCells s.part.variant < fld v 63 56 + fld v 55 48 || tdz = 0 || tms = 0 || tms < tdz then
    .error .value
  else .ok { s with pwr := { s.pwr with wb := fld v 63 56, wd := fld v 55 48, tdz := tdz, tms := tms } }

/-- R503: LWAKE. -/
def lwakeWrite (s : State) (v : Word) : Written :=
  if fld v 63 32 ≠ 0 then .error .value else .ok { s with pwr := { s.pwr with ticks := fld v 31 0 } }

/-- R503: FRCOPY. -/
def frcopyRead (s : State) : Word := BitVec.ofNat 64 (b2n s.pwr.frV * 2 ^ 63 + s.pwr.frAddr)

def frcopyWrite (s : State) (v : Word) : Written :=
  if fld v 62 40 ≠ 0 || fld v 5 0 ≠ 0 then .error .value
  else .ok { s with pwr := { s.pwr with frV := bit v 63, frAddr := fld v 39 0 } }

-- device rungs

/-- R500: no accepted transaction, and no reply, record or MRC waits to leave. -/
def deviceCalm (s : State) : Bool :=
  s.adm.reqs.isEmpty && (ledger s).isEmpty && s.jrn.path.isEmpty && s.adm.owed.isEmpty &&
  (s.jrn.ring.all fun r => r.ringDone && (r.tx.isNone || r.replied) && (!r.sent || r.acked)) &&
  (s.sessions.all fun x => x.store.isEmpty) &&
  ((List.range 9).all fun p => (getPort s p).answers.isEmpty && !((getPort s p).waiting.any fun m => isBusiness m.e))

/-- R501: the port trains or has lost lock: its signals keep the device awake. -/
def portStirs (s : State) (p : Nat) : Bool :=
  match (getPort s p).ls with
  | .negotiate | .equalize | .align | .recover => true
  | _ => false

/-- R390, R502: what keeps port `p` from the rung: nothing once it is in electrical idle, is not UP, or is M0 of a joined
device. -/
def portQuiet (s : State) (p : Nat) : Bool := (getPort s p).ls ≠ .up || (getPort s p).idle || (p = 8 && joined s)

/-- R390, R501: a port that is UP can be put in electrical idle. -/
def portsCalm (s : State) : Bool := (List.range 9).all fun p => !portStirs s p && (portQuiet s p || mayIdle s p)

/-- R493, R499, R500: the deepest rung that TGT, the cells and the conditions allow. -/
def rungAllowed (s : State) : Nat :=
  let cells := (List.range (ratedCells s.part.variant)).foldl (fun m n =>
    min m (if (getCell s n).exitAt.isSome then 0 else (getCell s n).cur)) 4
  let r := min s.pwr.tgt cells
  if tgtOk s r then r else if tgtOk s 3 && decide (3 ≤ r) then 3 else min r 2

/-- R499: a device that has woken may descend again after LRES.TDZ. -/
def rested (s : State) : Bool := s.pwr.wsrc = 0 || s.pwr.calmAt + s.pwr.tdz * micro ≤ s.now

/-- R390: IDLE_REQ to the far end of every port that is UP. -/
def askIdle (s : State) : State :=
  (List.range 9).foldl (fun t p =>
    if !portQuiet t p && mayIdle t p && !(getPort t p).idleAsked then
      emit (setPort t p { getPort t p with idleAsked := true }) (.idleReq p) else t) s

/-- R499: entry times, ps. -/
def entryPs (rung : Nat) : Nat := ([0, 1000000, 500000, 20000000, 150000000] : List Nat).getD rung 0

/-- R390: a port leaves electrical idle by transmitting. -/
def rousePort (s : State) (p : Nat) : State :=
  if (getPort s p).idle then
    setPort (passTo s (s.now + micro)) p { (getPort s p).dropExchange with idle := false, standby := false }
  else s

/-- R503: before Mist and Frost, MNT x000A to every ACTIVE session; then every session ends, none is parked. -/
def closeSessions (s : State) (rung : Nat) : State :=
  let s := mntAll ((activePorts s).foldl rousePort s) 0x0A (BitVec.ofNat 64 rung)
  let s := { s with sessions := [], time := { s.time with exch := [] } }
  (List.range 9).foldl (fun t p =>
    setPort t p { getPort t p with session := 0, sstate := 0, hailAt := none, answers := [] }) s

/-- R499: each port goes to fast-resume standby, or off in Frost. -/
def closePorts (s : State) (rung : Nat) : State :=
  (List.range 9).foldl (fun t p =>
    let x := getPort t p
    if x.ls = .up && rung = 3 then
      setPort t p { x.dropLink .up with
        gen := x.gen, width := x.width, rev := x.rev, inv := x.inv, idle := true, standby := true }
    else if x.ls = .absent then t
    else setPort t p (x.dropLink (restState x))) s

/-- R506: ledger time counts crystal periods. -/
def holdTime (s : State) : State :=
  { s with time := { s.time with
    base := ledgerNow s, left := slewLeft s, since := s.now, holdover := true } }

/-- R506: core-clock counting resumes from the holdover value. -/
def resumeTime (s : State) : State :=
  { s with time := { s.time with base := ledgerNow s, frac := timeFrac s, since := s.now, holdover := false } }

/-- R499, R505: what Frost loses: all but the always-on domain (R14, R509), the measurements and the steward's place
and keys, the journal's place (R503), and what the save area holds. -/
def frostLoss (s : State) : State :=
  { s with
    ctxs := []
    cores := []
    mesh := []
    ports := []
    adm := Admission.reset
    prot := { Prot.reset with fseal := s.prot.fseal, fsealOn := s.prot.fsealOn }
    pair := pairKept s.pair
    boot := { s.boot with
      micro := [], nano := [], custSel := [], sessionKeys := false, attKeys := none, reportAsk := none, report := none
      debugOpen := false, dbgStatus := false, dapErr := false, tapOut := 0 }
    mgmt := { Mgmt.reset with nodeId := s.mgmt.nodeId }
    pwr := { s.pwr with saved := if s.prot.fsealOn then some (s.ctxs, s.prot.keys) else none } }

/-- R499: what the memory ports drive in a rung. -/
def rungPins (rung : Nat) : MemPins := if rung < 3 then .powerDown else .selfRefresh

/-- R504, R505: an image of the resume copy at `a`: its header, payload, and whether both hashes hold. -/
def copyImage (s : State) (a len : Nat) (entry : List Byte) : List Byte × Bool :=
  let h := rdBytes s.mem a 128
  let p := rdBytes s.mem (a + 128) len
  (h ++ p, sha512 h = slice entry 32 64 && sha512 p = slice h 64 64 && evLen h = len)

/-- R505: the resume copy, when it passes; the customer image with it when the set had one. -/
def resumeImages (s : State) : Option (List Byte × Option (List Byte)) :=
  let a := s.pwr.frAddr
  let mc := copyImage s a 143360 (s.boot.mlog.getD 3 [])
  let e4 := s.boot.mlog.getD 4 []
  if !s.pwr.frV || !mc.2 then none
  else if field e4 6 1 = 1 then
    let cu := copyImage s (a + 143488) 22528 e4
    if cu.2 then some (mc.1, some cu.1) else none
  else some (mc.1, none)

/-- R505: the context store and the key table come back from the save area. -/
def restore (s : State) : State :=
  match s.pwr.saved with
  | some (cs, ks) => { s with ctxs := cs, prot := { s.prot with keys := ks }, pwr := { s.pwr with saved := none } }
  | none => s

/-- R505: a Frost exit; when the resume copy fails, the failure is logged and the device goes on as after a
system reset. -/
def frostExit (s : State) : State :=
  match resumeImages s with
  | some (mc, cu) =>
    let s1 := restore s
    let b := { loadStores s1.boot mc cu with attKeys := some (attSeed s1 s1.boot.mlog) }
    let s1 := { s1 with boot := b, pwr := { s1.pwr with cur := 0, fexit := true } }
    stewardRuns s1
  | none =>
    sysReset (logFault (resumeTime s) (Config.resumeCode 0 % 256) (Config.resumeCode 1 % 256) 4 (blockOf 0 0) 0)

/-- R494, R499, R505, R567: the device leaves Mist or Frost. -/
def deepWake (s : State) (src : Nat) : State :=
  let frost := decide (s.pwr.cur = 4)
  let gone := s.pwr.refLost && (match s.pwr.refBackAt with | some t => decide (s.now < t) | none => true)
  let s1 := { s with now := s.now + exitPs s.pwr.cur, pwr := { s.pwr with wsrc := src, refLost := gone } }
  if frost && gone then silentFault s1 0x10 4 (blockOf 0x10 0) 0
  else
    let s1 := driveMem (resumeTime s1) true .active
    let s1 := { s1 with pwr := { s1.pwr with calmAt := s1.now } }
    if frost then frostExit s1
    else commReset (wdResume { s1 with pwr := { s1.pwr with cur := 0 } })

/-- R501: the source may wake the device from the rung it is in, or end an entry (R516). -/
def wakes (s : State) (src : Nat) : Bool :=
  if s.pwr.entering.isSome then 1 ≤ src && src ≤ 12
  else if s.pwr.cur = 0 then false
  else if s.pwr.cur < 3 then 1 ≤ src && src ≤ 12 && src ≠ 11
  else 1 ≤ src && src ≤ 11 && bit s.pwr.wake (src - 1)

/-- R499 to R503, R516: the device is in the rung that it entered at `t0`, and leaves Mist or Frost at once when a wake
source came meanwhile. -/
def enterRung (s : State) (rung t0 : Nat) : State :=
  let s1 := if rung < 3 then s else holdTime (portSilent (closePorts s rung))
  let s1 := if rung = 4 then frostLoss s1 else s1
  let s1 := driveMem (passTo s1 (t0 + entryPs rung)) true (rungPins rung)
  let s1 := { s1 with pwr := { s1.pwr with
    cur := rung, fexit := false, enteredAt := s1.now, entering := none, wakeDue := none, refLost := false } }
  match s.pwr.wakeDue with
  | some src => if wakes s1 src then deepWake s1 src else s1
  | none => s1

/-- R390, R499: an entry goes on: the ports are asked, and the rung is entered once each has done its exchange. -/
def settleRung (s : State) (rung t0 : Nat) : State :=
  let s := askIdle s
  if (List.range 9).all fun p => !portStirs s p && portQuiet s p then enterRung s rung t0 else s

/-- R499, R503: an entry begins. -/
def beginRung (s : State) (rung : Nat) : State :=
  let s1 := { s with pwr := { s.pwr with entering := some (rung, s.now) } }
  settleRung (if rung < 3 then s1 else closeSessions s1 rung) rung s.now

/-- R499, R500, R516: DEVICE_RUNG_ENTRY: an entry begins, goes on, or is abandoned. That every steward core waits in its
idle routine is the sender's to say. -/
def execDeviceRungEntry (s : State) : Out :=
  let r := rungAllowed s
  if !alive s then .next s
  else match s.pwr.entering with
    | some (k, t0) =>
      if k < 3 && !(deviceCalm s && portsCalm s && k ≤ r) then .next (unsettle s 0)
      else .next (settleRung s k t0)
    | none =>
      if decide (s.pwr.cur < r) && deviceCalm s && portsCalm s && rested s then .next (beginRung s r) else .next s

-- wake

/-- R499, R501: the device wakes. -/
def wakeUp (s : State) (src : Nat) : State :=
  if s.pwr.entering.isSome || s.pwr.cur < 3 then stir s src else deepWake s src

/-- R501: DEVICE_WAKE; the wake timer has a row of its own. -/
def execDeviceWake (src : Byte) (s : State) : Out :=
  if s.phase = .running && wakes s src.toNat && src ≠ 11 then .next (wakeUp s src.toNat) else .next s

/-- R501: WAKE_TIMER_EXPIRY. -/
def execWakeTimerExpiry (s : State) : Out :=
  if s.phase = .running && s.pwr.entering.isNone && s.pwr.cur ≠ 0 && s.pwr.ticks ≠ 0 && (s.pwr.cur < 3 || bit s.pwr.wake 10) then
    .next (wakeUp (passTo s (s.pwr.enteredAt + s.pwr.ticks * 1000000000000 / 32768)) 11)
  else .next s

end Sys2Proof.Machine
end

