-- ==== Sys2Proof/Machine/Sessions.lean ====
section
/-! DEFINITION. Hail, session grants and leases (R410 to R413, R428, R430), and the join of a partner (R411,
R418, R420, R436). -/

namespace Sys2Proof.Machine

/-- R410: M0 hails while no partner is joined to it. -/
def mirrorTied (s : State) : Bool :=
  match pst s with
  | .paired | .resync => true
  | .solo => s.pair.rejoin
  | _ => false

/-- R418: a HAIL or HRP of the configured partner; a HAIL names its side too. -/
def partnerHail (s : State) (h : FarHail) : Bool :=
  bit s.pair.cfg 63 && h.serial = s.pair.pserial && b2n h.side ≠ ownStream s

/-- R411, R418, R436: the partner's HAIL on M0 is answered with an HRP of kind x10; one that R418 does not admit
refuses the join, which is counted. -/
def takeHail (s : State) (h : FarHail) : State :=
  if partnerHail s h then
    let s1 := { s with free := s.free + 1, pair := { s.pair with far := some (h.side, h.rsz) } }
    sendOn s1 8 3 32 none (.hrp 8 s.part.serial 0x10 0 (Config.freeWord s.free) h.nonce)
  else bump { s with pair := { s.pair with far := none } } 0x4000 0x0E

/-- R410: HAIL, with a fresh nonce, at once and then every 1 ms. -/
def sendHail (p : Nat) (s : State) : Out :=
  let x := getPort s p
  match x.hailAt with
  | some t =>
    if portsRun s && portExists s p && x.ls = .up && !x.idle && x.sstate ≤ 1 && !(p = 8 && mirrorTied s) then
      let s1 := passTo { s with free := s.free + 1 } t
      let n := Config.freeWord s.free
      let x1 := { x with sstate := 1, nonce := n, hailAt := some (max s.now t + milli) }
      .next (sendOn (setPort s1 p x1) p 3 24 none (.hail p s.part.serial (ownStream s = 1) x.gen x.width n))
    else .next s
  | none => .next s

/-- R402, R410, R411: HAIL, of the device, or of the partner on M0; on a host port it runs the wrong way. -/
def execHail (w : HailWay) (s : State) : Out :=
  match w with
  | .own p => sendHail p s
  | .far p h =>
    if p ≠ 8 then .next (if romHears s p || (alive s && portUp s p) then malformed s p else s)
    else if alive s && flows s 8 then .next (if h.good then takeHail s h else malformed s 8)
    else .next s

/-- R412: a new session. -/
def newSession (id p : Nat) (peer nonce : Word) (kind : Nat) : Session where
  id := id
  peer := peer
  kind := kind
  port := p
  st := 2
  parkedAt := 0
  nonce := nonce
  store := []
  grant := 0
  lease := 0
  grantAt := 0
  send0 := 1
  send1 := 1
  jda0 := 0
  jda1 := 0
  top0 := 0
  top1 := 0
  tsyAt := none
  wins := []

/-- R411, R413: the parked session that an HRP may have back. -/
def reassociable (s : State) (peer : Word) (park : Nat) : Option Session :=
  s.sessions.find? fun y => y.id = park && y.st = 4 && y.peer = peer && s.now ≤ y.parkedAt + 500 * milli

/-- R411: SGR. -/
def grantSession (s : State) (p : Nat) (peer nonce : Word) (kind park : Nat) : State :=
  let x := getPort s p
  let go := fun (s : State) (y : Session) (re : Bool) =>
    sendOn (setPort s p { x with session := y.id, sstate := 2, hailAt := none }) p 3 16 none (.sgr p re y.id nonce)
  match reassociable s peer park with
  | some y => go (putSession s { y with st := 2, port := p, nonce := nonce }) y true
  | none =>
    let y := newSession s.nextSession p peer nonce kind
    go { s with sessions := s.sessions ++ [y], nextSession := s.nextSession + 1 } y false

/-- R436 step 1: JSEAL.RSZ of both devices is equal. -/
def rszOk (s : State) : Bool :=
  match s.pair.far with
  | some (_, z) => z = fld s.prot.jseal 48 40
  | none => false

/-- R436 step 1: the device is the one that rejoins, unless its ring size refuses the join. -/
def resyncBy (s : State) : State :=
  if rszOk s then enterResync s else bump { s with pair := { s.pair with met := false } } 0x4000 0x0E

/-- R418, R420, R436: the partner answers on M0, and its HAIL has been heard (log entry 108). A JOINING or FENCED device
learns from its partner's next message whether it joins or rejoins. A survivor starts the rejoin once steps 1 to 3 of
R432 are done. -/
def joinPartner (s : State) (peer : Word) : State :=
  if !bit s.pair.cfg 63 || peer ≠ s.pair.pserial then bump s 0x4000 0x0E
  else if s.pair.far.isNone then s
  else
    match pst s with
    | .joining | .fenced => { s with pair := { s.pair with met := true } }
    | .solo => if s.pair.rejoin || !soloDone s then s else if rszOk s then startRejoin s else bump s 0x4000 0x0E
    | _ => s

/-- R411: HRP. -/
def execHrp (p : Nat) (peer : Word) (kind : Byte) (park : BitVec 32) (nonce echo : Word) (good : Bool) (s : State) : Out :=
  let x := getPort s p
  if !(portsRun s && x.ls = .up && !x.idle) then .next s
  else if !good || !([1, 2, 3, 16].contains kind.toNat) then .next (malformed s p)
  else if x.sstate ≠ 1 || x.nonce ≠ echo then .next s
  else if p = 8 then
    .next (if kind = 16 && alive s && !mirrorTied s then joinPartner s peer else s)
  else if kind = 16 then .next (bump s 0x4000 0x0F)
  else if s.phase = .rom then .next (setPort s p { x with bootPeer := true })
  else .next (grantSession s p peer nonce kind.toNat park.toNat)

/-- R411, R413: the first LGR makes the session ACTIVE; drain resumes from the last JDA + 1. -/
def activate (s : State) (p : Nat) (y : Session) : State :=
  let x := getPort s p
  if y.st = 2 then
    putSession (setPort s p { x with sstate := 3 })
      { y with st := 3, parkedAt := 0, send0 := y.jda0 + 1, send1 := y.jda1 + 1 }
  else s

/-- R428: what a lease from adapter `k` grants. -/
def takeGrant (s : State) (k : Nat) (g : Nat) : State :=
  let pr := s.pair
  if g = 2 then
    { s with pair := { pr with
      grants := (k, s.now + 6 * milli) :: pr.grants.filter fun e => e.1 ≠ k
      denied := pr.denied.filter (· ≠ k) } }
  else if g = 3 ∧ pst s = .claim then
    { s with pair := { pr with denied := k :: pr.denied.filter (· ≠ k) } }
  else s

/-- R411, R428: LGR. -/
def execLgr (p : Nat) (session seq : BitVec 32) (grant : BitVec 4) (good : Bool) (s : State) : Out :=
  let x := getPort s p
  if romHears s p then .next (malformed s p)
  else if !(alive s && portUp s p) then .next s
  else
    match s.sessions.find? fun y => y.id = session.toNat with
    | some y =>
      if good && decide (1 ≤ grant.toNat) && decide (grant.toNat ≤ 3) && x.session = y.id && decide (2 ≤ x.sstate) then
        let s1 := activate (putSession s { y with lease := seq.toNat, grant := grant.toNat, grantAt := s.now }) p
          { y with lease := seq.toNat, grant := grant.toNat, grantAt := s.now }
        match adapterOf s y.peer with
        | some k => .next (settleClaim (takeGrant s1 k grant.toNat))
        | none => .next s1
      else .next (malformed s p)
    | none => .next (malformed s p)

end Sys2Proof.Machine
end

