-- ==== Sys2Proof/Machine/Pair.lean ====
section
/-! DEFINITION. Events of the pair: mirror records, acknowledgements and heartbeats on M0, silence, grants and
moves (R418 to R440). -/

namespace Sys2Proof.Machine

/-- M0 carries traffic and the device is in service. -/
def m0Up (s : State) : Bool := alive s && (getPort s 8).ls = .up

/-- The device takes mirror records (R422, R427). -/
def takesMirror (s : State) : Bool :=
  !s.pair.broken && (pst s = .paired || pst s = .resync)

/-- R440: the record is held, or was. -/
def heldSeq (s : State) (st q : Nat) : Bool :=
  q < nextSeq s.jrn st && !(pst s = .resync && !anchored s st)

/-- R420: a device that joins a partner in service without a rejoin. -/
def joinPair (s : State) : State :=
  openStream { s with pair := { s.pair with
    st := .paired, broken := false, met := false, mhbAt := s.now, pinAt := s.now, hbm := true, hbp := pinHeard s } }

/-- R422, R436: an MRC reaches a JOINING or FENCED device that has its partner's HAIL or HRP: a state image makes it the
one that rejoins; to one that is JOINING and has the HRP, a record shows a partner that is PAIRED. -/
def joinBy (s : State) (k : Nat) : State :=
  if 0x80 ≤ k then
    (if (pst s = .joining || pst s = .fenced) && (s.pair.met || s.pair.far.isSome) then resyncBy s else s)
  else if pst s = .joining && s.pair.met then joinPair s
  else s

/-- R402, R422, R436, R440: MRC. -/
def execMrc (q : StreamSeq) (floor : BitVec 32) (body : List Byte) (good : Bool) (s : State) : Out :=
  let k := q.stream.toNat
  if !m0Up s then .next s
  else
  let s := stir s 9
  if !good || (2 ≤ k && !(0x80 ≤ k && k ≤ 0x83)) then .next (malformed s 8)
  else if !bit s.pair.cfg 63 then .next s
  else
  let s := joinBy s k
  if 2 ≤ k then
    if pst s = .resync && !s.pair.broken then
      .next (sendMak (takeImage s k q.seq.toNat body (body.length + 1)) k q.seq.toNat)
    else .next s
  else if !takesMirror s || (pst s = .paired && k = ownStream s) then .next s
  else
    match parseRec body with
    | some r =>
      if r.stream = k && r.seq = q.seq.toNat && heldSeq s k r.seq then .next (sendMak s k r.seq)
      else if r.stream = k && r.seq = q.seq.toNat && chainOk s r then .next (takeMirror s r floor.toNat)
      else .next (mirrorLoss (logFault s 0x17 0 5 8 q.seq))
    | none => .next (mirrorLoss (logFault s 0x17 0 5 8 q.seq))

/-- R402, R421, R79: MAK acknowledges every record of the stream up to its SEQ. -/
def execMak (q : StreamSeq) (good : Bool) (s : State) : Out :=
  let hit := fun (r : Rec) => r.stream = q.stream.toNat && r.sent && !r.acked && decide (r.seq ≤ q.seq.toNat)
  if m0Up s && (!good || (2 ≤ q.stream.toNat && !(0x80 ≤ q.stream.toNat && q.stream.toNat ≤ 0x83))) then .next (malformed s 8)
  else if m0Up s && pairSends s then
    let done := s.jrn.ring.filter hit
    let mark := fun (r : Rec) => if hit r then { r with acked := true, ackAt := s.now } else r
    let s1 := { s with jrn := { s.jrn with ring := s.jrn.ring.map mark } }
    .next (if pst s = .paired && q.stream.toNat = ownStream s then movesAcked s1 done else s1)
  else .next s

/-- R420, R436: a JOINING or FENCED device that has met its partner learns the partner's state: a SOLO partner is the
survivor of a rejoin; with one that is FENCED or in CLAIM there is none. -/
def joinAs (s : State) (pstate : Nat) : State :=
  if (pst s = .joining || pst s = .fenced) && s.pair.met then
    (if pstate = 4 then resyncBy s else if pst s = .joining && (pstate = 1 || pstate = 2) then joinPair s else s)
  else s

/-- R402, R421, R426, R438, R85: MHB. A side equal to the device's refuses the join (R418). -/
def execMhb (serial : Word) (side : Bool) (pstate : BitVec 4) (ready : Bool) (r : Reclaims) (good : Bool) (s : State) : Out :=
  if !m0Up s then .next s
  else if !good || 7 ≤ pstate.toNat then .next (malformed s 8)
  else if !bit s.pair.cfg 63 then .next s
  else if serial ≠ s.pair.pserial then .next s
  else if b2n side = ownStream s then .next (bump s 0x4000 0x0E)
  else
    let s := joinAs s pstate.toNat
    let s1 := { s with
      pair := { s.pair with hbm := true, mhbAt := s.now }
      jrn := { s.jrn with
        partnerRcl := max s.jrn.partnerRcl r.rcl.toNat, partnerMrcl := max s.jrn.partnerMrcl r.mrcl.toNat } }
    let s1 := reclaim s1
    if pst s = .solo && s.pair.rejoin && ready then .next (finishRejoin s1 true)
    else if pst s = .resync && s.pair.ready && pstate = 2 then .next (finishRejoin s1 false)
    else .next s1

/-- R421, R426: MHB every 100 µs. -/
def execMhbSend (s : State) : Out :=
  if m0Up s && beats s then
    let s1 := passTo s (s.pair.mhbSentAt + 100 * micro)
    let s1 := { s1 with pair := { s1.pair with mhbSentAt := s1.now } }
    .next (sendOn s1 8 0 32 none (.mhb s.part.serial (ownStream s = 1) (pstCode (pst s)) s.pair.ready
      (drainMark s (ownStream s)) (reclaimedOf s.jrn (1 - ownStream s))))
  else .next s

/-- R426: PAIR_HB_OUT toggles every 100 µs. -/
def execPairHbOutToggle (s : State) : Out :=
  if beats s then
    let s1 := passTo s (s.pair.toggleAt + 100 * micro)
    .next (emit { s1 with pair := { s1.pair with toggleAt := s1.now, hbOut := !s.pair.hbOut } } (.pairHbOut !s.pair.hbOut))
  else .next s

/-- R426, R456: a filtered edge on PAIR_HB_IN. -/
def execPairHbInEdge (s : State) : Out :=
  if s.phase = .held then .next s
  else
    let s1 := filtered s 1
    if alive s && !bit s.baro.chat 1 then
      .next { s1 with pair := { s1.pair with pinAt := s1.now, hbp := true } }
    else .next s1

/-- R426, R427: a path has been silent for 300 µs. -/
def execPathSilent (pin : Bool) (s : State) : Out :=
  if !alive s || !bit s.pair.cfg 63 then .next s
  else if pin then
    if s.pair.hbp then
      let s1 := passTo s (s.pair.pinAt + 300 * micro)
      .next (judge { s1 with pair := { s1.pair with hbp := false } } false)
    else .next s
  else if s.pair.hbm then
    let s1 := passTo s (s.pair.mhbAt + 300 * micro)
    .next (judge { s1 with pair := { s1.pair with hbm := false } } true)
  else .next s

/-- R427, R78: a MAK is 10 µs overdue; the log counts it with code x17 (log entry 71). -/
def execMakOverdue (s : State) : Out :=
  match leastRec s.jrn.ring (fun r => r.stream = ownStream s && r.sent && !r.acked) (·.sentAt) with
  | some r =>
    if alive s && pst s = .paired && !s.pair.broken then
      .next (mirrorLoss (logFault (passTo s (r.sentAt + 1340000 + 10 * micro)) 0x17 0 5 8 (BitVec.ofNat 64 r.seq)))
    else .next s
  | none => .next s

/-- R428, R431: the SOLO grant of adapter `k` expires. -/
def execSoloGrantExpiry (k : Nat) (s : State) : Out :=
  match s.pair.grants.find? fun g => g.1 = k with
  | some g =>
    if alive s then
      let s1 := passTo { s with pair := { s.pair with grants := s.pair.grants.filter fun e => e.1 ≠ k } } g.2
      .next (if pst s = .solo && !quorum s1 then enterFenced s1 else s1)
    else .next s
  | none => .next s

/-- R420: the join timeout passes without a partner. -/
def execJoinTimeout (s : State) : Out :=
  if alive s && pst s = .joining then
    .next (enterClaim (passTo s (s.pair.joinAt + s.pair.joinMs * milli)))
  else .next s

/-- R438: the joining device has acknowledged and applied everything sent. -/
def execRejoinReady (s : State) : Out :=
  if alive s && pst s = .resync && decide (ringTop s (1 - ownStream s) ≤ s.pair.mapply) then
    .next { s with pair := { s.pair with ready := true } }
  else .next s

/-- R418, R425, R432: MAPPLY. -/
def execMapplyWrite (v : Word) (s : State) : Out :=
  if alive s then .next { s with pair := { s.pair with mapply := v.toNat } } else .next s

/-- R541: whether a handover may start. -/
def handoverOk (s : State) (mask : Word) : Bool :=
  pst s = .paired &&
  (List.range 64).all fun k => !bit mask k || b2n (bit s.pair.ownmap k) = ownStream s

/-- R84, R439, R541: PARTITION_HANDOVER. -/
def execPartitionHandover (mask : Word) (s : State) : Out :=
  if alive s && mask ≠ 0 && handoverOk s mask && sysRoom s 16 then .next (startMove s mask) else .next s

/-- R84, R439 step 2: PARTITION_MOVE_RECORD of the first move that is clear, once the journal can take it. -/
def execPartitionMoveRecord (s : State) : Out :=
  match nextMove s with
  | some m =>
    if alive s && pst s = .paired && s.jrn.opened && sysRoom s 16 then
      let s1 := pairRecord s (ownStream s) (movedMap s m)
      .next (freeHolds { s1 with pair := { s1.pair with
        moves := s1.pair.moves.filter (fun k => k.id ≠ m.id) ++ [{ m with recorded := true }] } } (moveHold m.id))
    else .next s
  | none => .next s

end Sys2Proof.Machine
end

