-- ==== Sys2Proof/Machine/Registers.lean ====
section
/-! DEFINITION. The registers of the device control space (R112, R334, R373, R416, R418, R443, R498, R503):
what each reads, and what a write of each does. -/

namespace Sys2Proof.Machine

/-- A word of numbered fields: (place of the lowest bit, value). -/
def packWord (fs : List (Nat × Nat)) : Word := BitVec.ofNat 64 (fs.map fun f => f.2 * 2 ^ f.1).sum

-- ports

/-- R386. -/
def lstateCode : LState → Nat
  | .absent => 0
  | .disabled => 1
  | .detect => 2
  | .negotiate => 3
  | .equalize => 4
  | .align => 5
  | .up => 6
  | .recover => 7

/-- R412, R416: SSTATE and SESSION; a port that is DOWN shows the session it parked last. -/
def sessionShown (s : State) (p : Nat) : Nat × Nat :=
  let x := getPort s p
  if x.sstate ≠ 0 then (x.sstate, x.session)
  else match (s.sessions.filter fun y => y.st = 4 && y.port = p).getLast? with
    | some y => (4, y.id)
    | none => (0, 0)

/-- R416: PSTAT. -/
def pstatRead (s : State) (p : Nat) : Word :=
  let x := getPort s p
  let lit := x.ls = .up || x.ls = .recover
  let w := Nat.log2 (max 1 x.width)
  packWord [(60, lstateCode x.ls), (58, if lit then x.gen - 1 else 0), (56, if lit then w else 0), (55, b2n x.rev),
    (51, x.inv.toNat), (48, (sessionShown s p).1), (47, b2n x.squall), (0, (sessionShown s p).2)]

/-- R416: PCFG; absent ports read zero. -/
def pcfgRead (s : State) (p : Nat) : Word := if portExists s p then (getPort s p).pcfg else 0

/-- R416: reserved bits and encodings. -/
def pcfgOk (p : Nat) (v : Word) : Bool :=
  fld v 47 40 = 0 && fld v 37 36 = 0 && fld v 28 0 = 0 && fld v 35 33 ≠ 0 && fld v 32 30 ≠ 0 &&
  (if p = 8 then fld v 63 48 = 0 && fld v 39 38 = 0 && !bit v 33 && fld v 32 30 = 4 else fld v 63 48 ≠ 0)

/-- R59: the write would change S. -/
def changesS (s : State) (p : Nat) (v : Word) : Bool :=
  p = 8 && decide ((fld v 35 33 = 4) ≠ (fld (getPort s 8).pcfg 35 33 = 4))

/-- R416, R10, R59: a write of PCFG. -/
def pcfgWrite (s : State) (p : Nat) (v : Word) : Written :=
  let x := getPort s p
  if !portExists s p then .error .state
  else if !pcfgOk p v then .error .value
  else if changesS s p v && !noneAccepted s then .error .state
  else
    let s1 := setPort s p { x with pcfg := v }
    if portEn x && !bit v 29 then .ok (goDown s1 p)
    else if !portEn x && bit v 29 then .ok (setPort s1 p { getPort s1 p with ls := .detect })
    else .ok s1

-- pair

/-- R418: PAIRSTAT. -/
def pairstatRead (s : State) : Word :=
  packWord [(60, pstCode (pst s)), (59, b2n s.pair.hbm), (58, b2n s.pair.hbp), (53, (granted s).length)]

/-- R418: reserved bits and encodings of PAIRCFG. -/
def paircfgOk (v : Word) : Bool :=
  fld v 51 0 = 0 &&
  (if bit v 63 then 1 ≤ fld v 60 56 && fld v 60 56 ≤ 16 && fld v 55 52 < fld v 60 56
   else fld v 60 56 = 0 && fld v 55 52 = 0)

/-- R418: the LK fields of PAIRCFG. -/
def paircfgLk (v : Word) : Word := v &&& 0xDFFFFFFFFFFFFFFF

/-- R418: a write of PAIRCFG; once locked, only AUTOHB changes. -/
def paircfgWrite (s : State) (v : Word) : Written :=
  if !paircfgOk v then .error .value
  else if s.pair.locked && paircfgLk v ≠ paircfgLk s.pair.cfg then .error .state
  else .ok { s with pair := { s.pair with cfg := v } }

/-- A register of the pair that locks as a whole. -/
def lockedWrite (s : State) (p : Pair) : Written := if s.pair.locked then .error .state else .ok { s with pair := p }

/-- R418: PSERIAL, HOMEMAP (which OWNMAP follows until a partner joins), ADPk. -/
def pserialWrite (s : State) (v : Word) : Written := lockedWrite s { s.pair with pserial := v }
def homemapWrite (s : State) (v : Word) : Written := lockedWrite s { s.pair with homemap := v, ownmap := v }
def adpWrite (s : State) (k : Nat) (v : Word) : Written := lockedWrite s { s.pair with adp := tset s.pair.adp k v }

-- the Barometer

/-- R443: BSTAT. -/
def bstatRead (s : State) : Word :=
  packWord [(48, s.baro.last), (32, s.baro.logCnt), (5, s.baro.chat.toNat), (4, b2n (s.baro.src ≠ 0))]

/-- R444: the bytes of a log entry. -/
def logBytes (e : LogEntry) : List Byte :=
  beBytes 8 e.time ++ beBytes 1 e.code ++ beBytes 1 e.cls ++ beBytes 1 e.kind ++ beBytes 1 e.index ++
  beBytes 4 e.count ++ wordBytes e.detail ++ beBytes 4 e.boots ++ zeros 4

/-- R443, R444: entry `i` of the log; zeros where none has been written. -/
def logEntry (s : State) (i : Nat) : List Byte :=
  match s.baro.log.find? fun e => e.1 = i with
  | some e => logBytes e.2
  | none => zeros 32

/-- R443: BALRT. -/
def balrtWrite (s : State) (v : Word) : Written :=
  if fld v 63 32 ≠ 0 then .error .value else .ok (clearAlerts s (v.setWidth 32))

/-- R443: PERIOD of a watchdog write, locked by the first. -/
def periodWrite (s : State) (n : Nat) : Written :=
  if n = 0 || 100 < n then .error .value
  else if s.baro.wdLocked then .error .state
  else .ok { s with baro := { s.baro with wdPeriod := n, wdLocked := true } }

/-- R443: KICK. -/
def kickWdog (s : State) (v : Nat) : State :=
  if v = 0x5A3C then { s with baro := { s.baro with wdAt := some s.now } } else watchdogOut s

/-- R443: WDOG; a locked PERIOD field is ignored, whatever it holds. -/
def wdogWrite (s : State) (v : Word) : Written :=
  if fld v 63 32 ≠ 0 || fld v 23 16 ≠ 0 then .error .value
  else if s.baro.wdLocked then .ok (kickWdog s (fld v 15 0))
  else match periodWrite s (fld v 31 24) with
    | .ok t => .ok (kickWdog t (fld v 15 0))
    | .error e => .error e

/-- R443: LOGSEL. -/
def logselWrite (s : State) (v : Word) : Written :=
  if fld v 63 11 ≠ 0 then .error .value else .ok { s with baro := { s.baro with logSel := v.toNat } }

-- cells

/-- R334: the slab ends below x4_0000 and does not meet the heap-control block. -/
def slabOk (v : Word) : Bool :=
  let base := fld v 18 0
  1024 ≤ base && base + (fld v 63 56 + 1) * (512 * 2 ^ fld v 55 54) ≤ 0x40000

/-- R334: CCFG0 and CCFG1; only while the cell holds no accepted transaction. -/
def ccfgWrite (s : State) (n : Nat) (one : Bool) (v : Word) : Written :=
  let x := getCell s n
  if one then
    if fld v 53 52 ≠ 0 || fld v 47 19 ≠ 0 || fld v 8 0 ≠ 0 || !slabOk v then .error .value
    else if ratedCells s.part.variant ≤ n || cellHolds s n then .error .state
    else .ok (setCell s n { x with ccfg1 := v })
  else if fld v 63 40 ≠ 0 then .error .value
  else if ratedCells s.part.variant ≤ n || cellHolds s n then .error .state
  else .ok (setCell s n { x with ccfg0 := v })

def ccfgRead (s : State) (n : Nat) (one : Bool) : Word :=
  if ratedCells s.part.variant ≤ n then 0 else if one then (getCell s n).ccfg1 else (getCell s n).ccfg0

-- the map

/-- A register of the control space. -/
inductive CReg where
  | keys (b : Nat)
  | shadow (n : Nat) (regb : Bool)
  | active (n : Nat) (regb : Bool)
  | repoch | kfill | jseal | fseal
  | pcfg (p : Nat) | pstat (p : Nat)
  | paircfg | pserial | homemap | ownmap | mapply | pairstat
  | adp (k : Nat)
  | bstat | balrt | wdog | logsel
  | logdat (i : Nat)
  | dlad | lres | lwake | frcopy
  | clad (n : Nat)
  | dcfg
  | ccfg (n : Nat) (one : Bool)
  deriving DecidableEq, Repr

/-- The register at an aligned offset in a block of 64-bit registers. -/
def regAt (a : Nat) : Option CReg :=
  let o := a - 0xFF00000000
  let b := o / 0x1000000
  let d := o % 0x1000000
  if b = 1 && d < keyEntries then some (.keys d)
  else if b = 2 && d < 0x4000 then some (.shadow (d / 16) (d % 16 = 8))
  else if b = 2 && 0x10000 ≤ d && d < 0x14000 then some (.active ((d - 0x10000) / 16) (d % 16 = 8))
  else if b = 2 then
    (match d with
     | 0x20000 => some .repoch | 0x20008 => some .kfill | 0x20010 => some .jseal | 0x20018 => some .fseal
     | _ => none)
  else if b = 3 && d / 32 < 9 then
    (if d % 32 = 0 then some (.pcfg (d / 32)) else if d % 32 = 8 then some (.pstat (d / 32)) else none)
  else if b = 4 then
    (match d with
     | 0x00 => some .paircfg | 0x08 => some .pserial | 0x10 => some .homemap | 0x18 => some .ownmap
     | 0x20 => some .mapply | 0x28 => some .pairstat
     | _ => if 0x100 ≤ d && d < 0x180 then some (.adp ((d - 0x100) / 8)) else none)
  else if b = 5 then
    (match d with
     | 0x00 => some .bstat | 0x08 => some .balrt | 0x10 => some .wdog | 0x18 => some .logsel
     | _ => if 0x20 ≤ d && d < 0x40 then some (.logdat ((d - 0x20) / 8)) else none)
  else if b = 6 then
    (match d with
     | 0x00 => some .dlad | 0x08 => some .lres | 0x10 => some .lwake | 0x18 => some .frcopy
     | _ => if 0x100 ≤ d && d < 0x300 then some (.clad ((d - 0x100) / 8)) else none)
  else if b = 7 then
    (if d = 0 then some .dcfg
     else if 0x100 ≤ d && d < 0x500 then some (.ccfg ((d - 0x100) / 16) (d % 16 = 8)) else none)
  else none

/-- What a register reads. -/
def regRead (s : State) : CReg → Word
  | .keys b => BitVec.ofNat 64 (beNat ((List.range 8).map fun i => keyAt s (b + i)))
  | .shadow n r => tget 0 (if r then s.prot.shB else s.prot.shA) n
  | .active n r => tget 0 (if r then s.prot.actB else s.prot.actA) n
  | .repoch => repochRead s
  | .kfill => kfillRead s
  | .jseal => s.prot.jseal
  | .fseal => s.prot.fseal
  | .pcfg p => pcfgRead s p
  | .pstat p => pstatRead s p
  | .paircfg => s.pair.cfg
  | .pserial => s.pair.pserial
  | .homemap => s.pair.homemap
  | .ownmap => s.pair.ownmap
  | .mapply => BitVec.ofNat 64 s.pair.mapply
  | .pairstat => pairstatRead s
  | .adp k => tget 0 s.pair.adp k
  | .bstat => bstatRead s
  | .balrt => s.baro.src.setWidth 64
  | .wdog => packWord [(24, s.baro.wdPeriod)]
  | .logsel => BitVec.ofNat 64 s.baro.logSel
  | .logdat i => BitVec.ofNat 64 (field (logEntry s s.baro.logSel) (8 * i) 8)
  | .dlad => dladRead s
  | .lres => lresRead s
  | .lwake => BitVec.ofNat 64 s.pwr.ticks
  | .frcopy => frcopyRead s
  | .clad n => cladRead s n
  | .dcfg => packWord [(0, b2n s.prot.dtrap)]
  | .ccfg n one => ccfgRead s n one

/-- R11: a write of reserved bits of a read-only register is refused; its fields take no effect. -/
def roWrite (s : State) (reserved : Bool) : Written := if reserved then .error .value else .ok s

/-- What a write of a whole register does; `int` says that the word was FIX or RAW. -/
def regWrite (s : State) (r : CReg) (int : Bool) (v : Word) : Written :=
  match r with
  | .keys b => if int && b % 8 = 0 then keyWrite s b (wordBytes v) else .error .value
  | .shadow n rb => if int then regionWrite s n rb v else .error .value
  | .active _ rb => roWrite s (!(if rb then regbOk v else regaOk v))
  | .repoch => repochWrite s v
  | .kfill => kfillWrite s v
  | .jseal => jsealSet s v
  | .fseal => fsealSet s v
  | .pcfg p => pcfgWrite s p v
  | .pstat _ => roWrite s (fld v 46 32 ≠ 0)
  | .paircfg => paircfgWrite s v
  | .pserial => pserialWrite s v
  | .homemap => homemapWrite s v
  | .ownmap => .ok s
  | .mapply => .ok { s with pair := { s.pair with mapply := v.toNat } }
  | .pairstat => roWrite s (fld v 52 0 ≠ 0)
  | .adp k => adpWrite s k v
  | .bstat => roWrite s (fld v 63 56 ≠ 0 || fld v 31 8 ≠ 0 || fld v 3 0 ≠ 0)
  | .balrt => balrtWrite s v
  | .wdog => wdogWrite s v
  | .logsel => logselWrite s v
  | .logdat _ => .ok s
  | .dlad => dladWrite s v
  | .lres => lresWrite s v
  | .lwake => lwakeWrite s v
  | .frcopy => frcopyWrite s v
  | .clad n => cladWrite s n v
  | .dcfg => dcfgSet s v
  | .ccfg n one => ccfgWrite s n one v

/-- A write of the aligned word at `a` of the control space; an address without a register takes none. -/
def ctlWrite (s : State) (a : Nat) (w : TWord) : State :=
  match if a % 8 = 0 then regAt a else none with
  | some r => settleWrite s (regWrite s r (isInt w) w.pay)
  | none => refuse s

/-- R13: REGISTER_WRITE. -/
def execRegisterWrite (addr : Addr) (v : Word) (s : State) : Out :=
  if alive s then .next (ctlWrite (mailed s) addr.toNat (fix v)) else .next s

end Sys2Proof.Machine
end

