-- ==== Sys2Proof/Machine/Control.lean ====
section
/-! DEFINITION. The device control space xFF (R112, R359, R373): loads and stores by the cores and the debug
master. -/

namespace Sys2Proof.Machine

/-- A byte of the control space; one without a register is open (log entry 39). -/
def ctlByte (s : State) (a : Nat) : Byte :=
  match regAt (a / 8 * 8) with
  | some r => (wordBytes (regRead s r)).getD (a % 8) 0
  | none => Config.ctlHole s.free a

/-- Bytes that a load from the control space delivers. -/
def ctlLoad (s : State) (a n : Nat) : List Byte := (List.range n).map fun i => ctlByte s (a + i)

/-- A store into the control space: an aligned word into a register, or one byte into the key table; R13
refuses any other. -/
def ctlStore (s : State) (a : Nat) (bs : List Byte) (tag : Byte) : State :=
  if bs.length = 8 then ctlWrite s a ⟨tag, BitVec.ofNat 64 (beNat bs)⟩
  else match regAt (a / 8 * 8), bs with
    | some (.keys b), [v] => settleWrite s (keyWrite s (b + a % 8) [v])
    | _, _ => refuse s

end Sys2Proof.Machine
end

