-- ==== Sys2Proof/Machine/Vault.lean ====
section
/-! DEFINITION. The key vault and the debug access port: reports (R486), lifecycle and tokens (R487 to R491),
dual-signed envelopes (R464 to R466), and the debug master (R379, R380). -/

namespace Sys2Proof.Machine

-- attestation reports

/-- R487, R490: TAINT as a report shows it. -/
def taintShown (b : Boot) : Bool := b.taint || b.life ≤ 2

/-- R486: bytes 0 to 639 of a report. -/
def reportBody (s : State) (nonce : List Byte) : List Byte :=
  let b := s.boot
  beBytes 2 0x1A01 ++ beBytes 1 b.life ++ beBytes 1 (b2n (taintShown b) + 2 * b2n (joined s)) ++ beBytes 4 b.sacc ++
  wordBytes s.part.serial ++ beBytes 8 (ledgerNow s) ++ nonce ++ sha3 b.attEnd ++ beBytes 2 b.arb ++
  beBytes 1 b.revoke.toNat ++ beBytes 1 b.bslot ++ zeros 4 ++ b.mlog.flatten ++ zeros 64

/-- R486: a report, signed with the attestation keys (log entry 17). -/
def reportOf (s : State) (nonce : List Byte) : List Byte :=
  let b := reportBody s nonce
  b ++ sigBytes fun k => Config.vaultSign k 2 (s.boot.attKeys.getD []) b

/-- R486: a write of the report request; the SDO abort code of its refusal. -/
def askReport (s : State) (nonce : List Byte) : Except Nat State :=
  if nonce.length ≠ 32 then .error 0x06070010
  else if s.boot.reportAsk.isSome || s.boot.life = 4 then .error 0x08000022
  else .ok { s with boot := { s.boot with reportAsk := some nonce } }

def execReportRequest (nonce : List Byte) (s : State) : Out :=
  if alive s then .next (match askReport s nonce with | .ok t => t | .error _ => s) else .next s

/-- R486: REPORT_COMPLETE, with the flags in force at its signing. -/
def execReportComplete (s : State) : Out :=
  match s.boot.reportAsk with
  | some n =>
    if alive s then .next { s with boot := { s.boot with report := some (reportOf s n), reportAsk := none } } else .next s
  | none => .next s

-- lifecycle and tokens

/-- R491: debug is opened. -/
def openDebug (s : State) : State :=
  let s1 := { s with boot := { s.boot with
    sessionKeys := false, taint := true, debugOpen := true } }
  notice (lifeRecord s1 1) 9

/-- R490: format and zero fields of a token. -/
def tokenFormat (t : List Byte) : Bool :=
  t.length = 5421 && field t 0 2 = 0x0D01 && 1 ≤ field t 2 1 && field t 2 1 ≤ 3 && zeroAt t 4 4 && zeroAt t 32 32

/-- R490: the checks of a token, with its PURPOSE in the lifecycle state. -/
def tokenOk (s : State) (t : List Byte) : Bool :=
  let sg := t.drop 64
  let msg := t.take 64
  tokenFormat t && field t 8 8 = s.part.serial.toNat && field t 16 16 = s.boot.dbgNonce.toNat &&
  slotUsable s.boot (field t 3 1) && beNat (signerHash sg) = (tget 0 s.boot.slots (field t 3 1)).toNat &&
  Config.edVerify (sg.take 32) msg (slice sg 1984 64) && Config.mlVerify (slice sg 32 1952) msg (slice sg 2048 3309)

/-- R471: bits of LIFE are being blown; until that is done no other operation advances the lifecycle. -/
def lifeBusy (b : Boot) : Bool := b.fuseJobs.any fun j => j.use = .lcadv || j.use = .production || j.use = .retire

/-- R488: the bits of SECRET that are not blown. -/
def secretLeft (b : Boot) : List Fuse := ((List.range 256).filter fun i => !bit b.secret i).map .secret

/-- R471, R487, R490: what a token of a purpose does in the lifecycle state. -/
def useToken (s : State) (purpose : Nat) : State :=
  match purpose, s.boot.life with
  | 1, 3 => openDebug s
  | 2, 2 => if lifeBusy s.boot then s else blowFuses s .production [.life]
  | 3, 2 | 3, 3 =>
    if lifeBusy s.boot then s else blowFuses s .retire (List.replicate (4 - s.boot.life) .life ++ secretLeft s.boot)
  | _, _ => s

/-- The debug access port shifts; the device has power and is out of power-on reset (R554). -/
def tapUp (s : State) : Bool := s.phase ≠ .held

/-- R489: the instruction of the TAP that a code selects; every code without one acts as BYPASS. -/
def tapOf (ir : Byte) : Byte :=
  if ir.toNat < 5 || (0x10 ≤ ir.toNat && ir.toNat ≤ 0x13) || ir = 0x20 then ir else 0xFF

/-- R489: what drives the pins while an instruction is in the register. -/
def tapDrive (ir : Byte) : PinDrive :=
  match (tapOf ir).toNat with
  | 0 | 3 => .boundary
  | 4 => .highZ
  | _ => .device

/-- R489: an instruction of the TAP, and what it shifts out. -/
def tap (s : State) (ir : Byte) (out : Nat) : State :=
  { s with boot := { s.boot with tapIr := tapOf ir, tapOut := BitVec.ofNat 160 out, pinDrive := tapDrive ir } }

def tapRun (s : State) (f : State → State) : Out := if tapUp s then .next (f s) else .next s

/-- R489, R490: DBGTOKEN; the nonce is replaced whatever the outcome. -/
def execDbgtoken (bytes : List Byte) (s : State) : Out :=
  tapRun s fun s =>
    let s := tap s 0x11 0
    newDbgNonce (if guarded' s && tokenOk s bytes then useToken s (field bytes 2 1) else s)

/-- R489: DBGNONCE, with the status bit above it. -/
def execDbgnonce (s : State) : Out :=
  tapRun s fun s =>
    let s1 := tap s 0x10 (s.boot.dbgNonce.toNat + 2 ^ 128 * b2n s.boot.dbgStatus)
    { s1 with boot := { s1.boot with dbgStatus := false } }

/-- R489: IDCODE. -/
def idcodeOf (s : State) : Nat := s.part.stepping % 16 * 2 ^ 28 + 0x8600 * 2 ^ 12 + 0x5D3 * 2 + 1
def execIdcode (s : State) : Out := tapRun s fun s => tap s 0x01 (idcodeOf s)

/-- Boundary cells as they shift out, and the boundary register as it is shifted in (log entry 19). -/
def scan (s : State) (ir : Byte) : State :=
  tap { s with free := s.free + 1, boot := { s.boot with bscan := Config.scanIn s.free } } ir (Config.scanOut s.free).toNat

/-- R489, R453: EXTEST; fail-silent first. -/
def execExtest (s : State) : Out := tapRun s fun s => scan (silence s) 0x00
def execSamplePreload (s : State) : Out := tapRun s fun s => scan s 0x02
/-- R489: CLAMP, as EXTEST with bypass. -/
def execClamp (s : State) : Out := tapRun s fun s => tap (silence s) 0x03 0
def execHighz (s : State) : Out := tapRun s fun s => tap (silence s) 0x04 0
def execBypass (s : State) : Out := tapRun s fun s => tap s 0xFF 0

/-- R471, R487, R489: SLOTPROG blows the bits of the hash. -/
def execSlotprog (slot : Fin 4) (hash : BitVec 256) (s : State) : Out :=
  tapRun s fun s =>
    let s := tap s 0x12 0
    if s.boot.life ≤ 2 && tget 0 s.boot.slots slot.val = 0 && !(s.boot.fuseJobs.any fun j => j.use = .slotprog) then
      blowFuses s .slotprog (((List.range 256).filter fun i => bit hash i).map (.slot slot.val))
    else tapRefuse s

/-- R471, R487, R489: LCADV. -/
def execLcadv (s : State) : Out :=
  tapRun s fun s =>
    let s := tap s 0x13 0
    if s.boot.life = 1 && tget 0 s.boot.slots 0 ≠ 0 && !lifeBusy s.boot then blowFuses s .lcadv [.life]
    else tapRefuse s

-- the debug master

/-- R379: whether the debug master may reach the eight bytes at `a`, and whether a sealed range lies among
them. -/
def dapSealed (s : State) (a : Nat) : Bool := (List.range 8).any fun i => sealedAt s.prot (a + i)

def dapAllowed (s : State) (write : Bool) (a : Nat) : Bool :=
  guarded' s && s.pwr.cur < 3 && a % 8 = 0 && !dapSealed s a &&
  (match s.boot.life with
   | 1 | 2 => (List.range 8).all fun i => locOf s.part none (a + i) ≠ .none
   | 3 => s.boot.debugOpen && (rangeFail s ⟨none, 0, 0⟩ (if write then .write else .read) a 8).isNone
   | _ => false)

/-- R380: a refused access; one that touches a sealed range counts. -/
def dapRefuse (s : State) (a : Nat) : State :=
  { s with boot := { s.boot with
    dapErr := true
    sacc := if dapSealed s a then min (s.boot.sacc + 1) (2 ^ 32 - 1) else s.boot.sacc } }

/-- R156: no word of a reserved class can be made (log entry 115). -/
def dapReserved (w : TWord) : Bool := 12 ≤ fld w.tag 7 4 && fld w.tag 7 4 ≤ 14

/-- R91, R379: a word read by the debug master. -/
def dapRead (s : State) (err : DramErr) (a : Nat) : State :=
  if 0xFF00000000 ≤ a then tap s 0x20 (beNat (ctlLoad s a 8))
  else if isDram s a then
    let w := dramWord err a (rdWord s.mem a)
    tap (dramReport s err a) 0x20 (w.tag.toNat * 2 ^ 64 + w.pay.toNat)
  else tap s 0x20 ((rdWord s.mem a).tag.toNat * 2 ^ 64 + (rdWord s.mem a).pay.toNat)

/-- R379: a word read or written by the debug master. -/
def dapAccess (s : State) (op : DapOp) (a : Nat) (w : TWord) : State :=
  let s := { s with boot := { s.boot with dapErr := false } }
  match op with
  | .read err => dapRead s err a
  | .write => if 0xFF00000000 ≤ a then ctlWrite s a w else applyWrite s ⟨a, wordBytes w.pay, w.tag, false⟩

/-- R379, R380: DAP. -/
def execDap (op : DapOp) (addr : Addr) (w : TWord) (s : State) : Out :=
  tapRun s fun s =>
    let s := tap { s with free := s.free + 1 } 0x20 0
    if dapAllowed s (op = .write) addr.toNat && !(op = .write && dapReserved w) then dapAccess s op addr.toNat w
    else dapRefuse s addr.toNat

-- dual-signed commands

/-- R464: zero fields of the arguments of a command. -/
def argsZero (cmd : Nat) (e : List Byte) : Bool :=
  match cmd with
  | 1 => zeroAt e 40 24
  | 2 => zeroAt e 34 6 && zeroAt e 48 16
  | 3 => zeroAt e 34 6 && zeroAt e 56 8
  | _ => zeroAt e 36 28

/-- R466, R539: the checks of an envelope for a command. -/
def commandOk (s : State) (cmd : Nat) (e : List Byte) : Bool :=
  field e 0 2 = 0x0C01 && field e 2 1 = cmd && zeroAt e 3 5 && argsZero cmd e && field e 8 8 = s.part.serial.toNat &&
  field e 16 16 = s.baro.nonce.toNat && Config.edVerify s.boot.cmdEd (e.take 64) (slice e 64 64) &&
  Config.mlVerify s.boot.cmdMl (e.take 64) (slice e 128 3309)

/-- An accepted write: the state it leaves, the W its answer waits for, and the KIND of a record it waits for. -/
abbrev Accepted := State × Option Nat × Nat

/-- R77, R460: TIME_STEP; its record is written before the step, in a stream that has been opened. -/
def stepCommand (s : State) (step : Nat) : Except Nat Accepted :=
  if step = 0 || 86400 * 1000000000 < step then .error 0x06090030
  else match sysRecord s 0x13 id (fun _ => beBytes 8 step) with
    | none => .error 0x08000020
    | some (s1, _) => if canJournal s then .ok (s1, none, 0x13) else .error 0x08000022

/-- R49, R539: a command that changes OPENFROM or CLOSE of a pool. -/
def gateCommand (s : State) (pool : Nat) (ok : Nat → BitVec 256 → BitVec 256 → Bool) (re : Option Bool)
    (f : BitVec 256 → BitVec 256) : Except Nat Accepted :=
  let e := poolAhead s pool
  match gateChange s pool (fun w => primaryFor s (pgPart e) && ok w e (f e)) (pgNew (f e) (re.getD (bit e 247))) with
  | .ok (s1, w) => .ok (s1, some w, 0)
  | .error a => .error a

/-- R463: MOG_LIMITS. -/
def mogCommand (s : State) (frames emcys : Nat) : Except Nat Accepted :=
  if frames = 0 || 2000 < frames || emcys = 0 || 100 < emcys then .error 0x06090030
  else .ok ({ s with baro := { s.baro with mogFrames := frames, mogEmcy := emcys } }, none, 0)

/-- R464, R539: what an accepted envelope commands. -/
def runCommand (s : State) (cmd : Nat) (e : List Byte) : Except Nat Accepted :=
  match cmd with
  | 1 => stepCommand s (field e 32 8)
  | 2 => gateCommand s (field e 32 2) pgLater none fun v => setFld v 127 64 (field e 40 8)
  | 3 => gateCommand s (field e 32 2) pgReopen (some true) fun v => setFld (setFld v 191 128 (field e 40 8)) 127 64 (field e 48 8)
  | _ => mogCommand s (field e 32 2) (field e 34 2)

/-- R465, R466: an envelope is received; the nonce is replaced, and a refusal is counted. Answers the state and
the outcome. -/
def signedWrite (s : State) (cmd : Nat) (e : List Byte) : State × Except Nat Accepted :=
  if e.length ≠ 3437 then (s, .error 0x06070010)
  else
    let s1 := newCmdNonce s
    if commandOk s cmd e then
      match runCommand s1 cmd e with
      | .ok a => (a.1, .ok a)
      | .error c => (s1, .error c)
    else (bump s1 0x4000 0x0D, .error 0x08000020)

/-- A dual-signed command of a device in service. -/
def signedCommand (s : State) (cmd : Nat) (env : List Byte) : Out :=
  if alive s then .next (signedWrite s cmd env).1 else .next s

def execTimeStep (env : List Byte) (s : State) : Out := signedCommand s 1 env
def execCloseLater (env : List Byte) (s : State) : Out := signedCommand s 2 env
def execReopen (env : List Byte) (s : State) : Out := signedCommand s 3 env
def execMogLimits (env : List Byte) (s : State) : Out := signedCommand s 4 env

end Sys2Proof.Machine
end

