-- ==== Sys2Proof/Machine/Objects.lean ====
section
/-! DEFINITION. The object dictionary (chapter 17): which objects there are, their access and types, what each
reads and what a write of each does. -/

namespace Sys2Proof.Machine

-- context records (R320, R321)

def stCode : CState → Nat
  | .free => 0
  | .staging => 1
  | .ready => 2
  | .running => 3
  | .frozen => 5
  | .ending => 6

/-- R320: words 0 to 54 of a record. Words without a tag of their own are FIX (log entry 40). -/
def bankWords (b : Bank) : List TWord :=
  b.g.toList ++
  b.a.toList.flatMap (fun v => (List.range 4).map fun i => fixN (v.toNat / 2 ^ (64 * (3 - i)) % 2 ^ 64)) ++
  [fix b.ct, fixN b.xb.toNat, fix b.ps, fix b.te, fix b.fl, fix b.xa, fix b.xc]

/-- R320: CSTATE. -/
def cstateWord (x : Ctx) : Word :=
  packWord [(60, stCode x.st), (52, x.lane), (44, x.slot), (42, x.sel.cls), (30, x.prog), (27, x.depth),
    (26, b2n x.exc.isSome), (25, b2n x.ovrp), (24, b2n x.fpd), (0, x.freason)]

/-- R320: a base record. -/
def baseWords (x : Ctx) : List TWord :=
  let lv := fun (i : Nat) => x.levels.getD i 0
  bankWords x.base ++
  [x.ssp, fix (cstateWord x), fixN x.dl, fixN x.dc, fix (packWord [(32, x.win), (0, x.bcnt)]),
   fix (packWord [(32, x.base.pend.toNat), (0, x.pendF.toNat)]),
   fix (packWord [(56, x.frb.length), (42, lv 0), (28, lv 1), (14, lv 2), (0, lv 3)]),
   fix (packWord [(50, x.levels.getLastD 0), (0, x.slim.toNat)]), fixN x.stamp] ++
  x.f.toList.map fix ++ ((x.frb.map fun e => e.2) ++ List.replicate (24 - x.frb.length) ⟨0, 0⟩ : List TWord).take 24 ++ List.replicate 8 ⟨0, 0⟩

/-- R321: a level record. -/
def levelWords (b : Bank) (link : TWord) (linfo : Word) : List TWord :=
  bankWords b ++ [link, fix linfo] ++ List.replicate 71 ⟨0, 0⟩

/-- R321: the record of a gate level. -/
def gateRec (g : GateLevel) : List TWord :=
  levelWords g.bank (ptr 10 true g.link.toNat)
    (packWord [(62, b2n g.cSmode), (60, g.cPriv), (40, g.rmask.toNat), (0, g.desc.toNat)])

/-- R265, R340: the record of the emulation routine inside which level `l` stands, if it does: a Supervisor level, whose
other registers the spec does not give (log entry 126). -/
def emuRec (x : Ctx) (l : Nat) : List (List TWord) :=
  match x.emu.find? fun e => e.1 = l with
  | some (_, ia, _) =>
    let b := x.bankOf l
    let w := fun i => Config.emuWord ia.toNat i
    let ps := fix (setFld (setFld (w 50).pay 19 18 1) 16 16 (b2n b.ovr))
    let linfo := fix (setFld (setFld (setFld (w 56).pay 63 63 0) 62 62 (b2n b.smode)) 61 60 b.priv)
    [((List.range 50).map w) ++ [ps] ++ (List.range 4).map (fun i => w (51 + i)) ++
      [ptr 10 true (w 55).pay.toNat, linfo] ++ List.replicate 71 ⟨0, 0⟩]
  | none => []

/-- R321: the gate levels of a context, depth 1 first, each with the emulation routine above it; that of the exception
level stands above the gate levels at which it was entered. -/
def gateRecs (x : Ctx) : List (List TWord) :=
  let own := fun i => match x.exc with | some e => if e.depth = i then emuRec x 1 else [] | none => []
  emuRec x 0 ++ own 0 ++
    (x.gates.reverse.zipIdx 1).flatMap fun e => gateRec e.1 :: (emuRec x (e.2 + 1) ++ own e.2)

/-- R321: the level record at place `i` of a context's reservation: gate level i + 1, or the last, the
exception level. -/
def levelRec (x : Ctx) (i : Nat) : List TWord :=
  match (gateRecs x)[i]?, x.exc with
  | some g, _ => g
  | none, some e =>
    if i + 1 = x.levels.length then levelWords e.bank (fixN e.frame.toNat) (packWord [(63, 1)])
    else List.replicate 128 ⟨0, 0⟩
  | none, none => List.replicate 128 ⟨0, 0⟩

/-- R320, R321: record `n`; one that serves no context reads zero. -/
def recWords (s : State) (n : Nat) : List TWord :=
  let x := getCtx s n
  if x.st ≠ .free then baseWords x
  else match s.ctxs.find? fun e => (levelsHeld e.2).contains n with
    | some e => levelRec e.2 (e.2.levels.idxOf n)
    | none => List.replicate 128 ⟨0, 0⟩

/-- R547: a record as 128 words of 9 bytes. -/
def recordBytes (s : State) (n : Nat) : List Byte := (recWords s n).flatMap fun w => wordBytes w.pay ++ [w.tag]

-- the table of objects

/-- R531. -/
inductive OAcc where
  | const | ro | rw | wo | sw
  deriving DecidableEq, Repr

/-- A value as an object holds it: a number of some bytes, whose byte order is the path's, or bytes. -/
inductive OVal where
  | num (bytes v : Nat)
  | raw (bs : List Byte)
  deriving DecidableEq, Repr

/-- R521: cell tables, whose sub-index is a cell. -/
def cellTable (i : Nat) : Bool := i = 0x2900 || i = 0x2901 || i = 0x2902 || i = 0x2904 || i = 0x2905

/-- R521: the highest sub-index of each index; none for a reserved index. -/
def subTop (i : Nat) : Option Nat :=
  if 0x3000 ≤ i && i < 0x4000 then some 0
  else if cellTable i then some 63
  else if 0x4001 ≤ i && i ≤ 0x4008 then some 9
  else match i with
    | 0x1000 | 0x1001 | 0x1008 | 0x1009 | 0x100A | 0x1014 | 0x1017 => some 0
    | 0x1003 => some 8
    | 0x1018 => some 4
    | 0x1200 => some 2
    | 0x2000 | 0x2001 | 0x2002 | 0x2003 | 0x2201 | 0x2203 | 0x2402 => some 0
    | 0x2010 => some 6
    | 0x2100 => some 4
    | 0x2200 => some 5
    | 0x2202 => some 4
    | 0x2300 | 0x2301 => some 9
    | 0x2400 => some 7
    | 0x2401 => some 16
    | 0x2500 => some 7
    | 0x2501 | 0x2600 => some 4
    | 0x2601 => some 5
    | 0x2602 | 0x2801 => some 2
    | 0x2700 => some 9
    | 0x2800 => some 5
    | 0x2903 => some 3
    | 0x4000 => some 18
    | _ => none

/-- R521: sub-index 00 gives the highest sub-index. -/
def isCount (i sub : Nat) : Bool :=
  sub = 0 && !cellTable i && i ≠ 0x1003 && (match subTop i with | some n => decide (0 < n) | none => false)

/-- R534 to R550: the access of an object. -/
def objAcc (i sub : Nat) : OAcc :=
  if isCount i sub then .const
  else match i, sub with
    | 0x1000, _ | 0x1008, _ | 0x1009, _ | 0x1018, _ | 0x2000, _ | 0x2001, _ | 0x2501, _ => .const
    | 0x1003, 0 | 0x1017, _ | 0x2002, _ => .rw
    | 0x2010, k => if k ≤ 5 then .rw else .ro
    | 0x2100, _ => .rw
    | 0x2200, 2 | 0x2200, 3 | 0x2200, 4 => .rw
    | 0x2202, _ => .sw
    | 0x2300, _ | 0x2401, _ => .rw
    | 0x2400, 1 | 0x2400, 2 | 0x2400, 3 | 0x2400, 7 => .rw
    | 0x2402, _ => .wo
    | 0x2500, 1 | 0x2500, 2 | 0x2500, 3 | 0x2500, 7 => .rw
    | 0x2600, _ | 0x2601, 1 | 0x2601, 2 | 0x2601, 3 | 0x2602, _ => .rw
    | 0x2700, 3 => .wo
    | 0x2801, _ | 0x2901, _ | 0x2904, _ | 0x2905, _ => .rw
    | 0x2903, 1 => .rw
    | 0x2903, 3 => .wo
    | i, _ => if 0x3000 ≤ i && i < 0x4000 then .rw else .ro

/-- The length of the type of a writable object. -/
def lenOf (i sub : Nat) : Nat :=
  match i, sub with
  | 0x1003, _ | 0x2002, _ => 1
  | 0x1017, _ => 2
  | 0x2010, 3 => 1
  | 0x2010, _ => 2
  | 0x2200, 2 => 4
  | 0x2200, 3 => 1
  | 0x2200, _ => 2
  | 0x2202, _ => 3437
  | 0x2400, 7 => 2
  | 0x2500, 1 => 2
  | 0x2500, 2 | 0x2500, 3 => 1
  | 0x2601, 1 | 0x2801, 1 | 0x2903, _ => 2
  | 0x2602, 1 => 4
  | 0x2700, _ | 0x2801, _ => 32
  | i, _ => if 0x3000 ≤ i && i < 0x4000 then 128 else 8

/-- An OCTET_STRING or DOMAIN, which has no byte order. -/
def isRaw (i sub : Nat) : Bool :=
  (0x3000 ≤ i && i < 0x4000) || i = 0x2202 || (i = 0x2700 && sub = 3) || (i = 0x2801 && sub = 2)

/-- R518: objects that CAN FD may write. -/
def canWritable (i sub : Nat) : Bool :=
  (i = 0x1003 && sub = 0) || (i = 0x1017 && sub = 0) || (i = 0x2010 && 1 ≤ sub && sub ≤ 5) ||
  (i = 0x2200 && sub = 4) || ((i = 0x2601 || i = 0x2602 || i = 0x2801 || i = 0x2903) && sub = 1) ||
  (i = 0x2700 && sub = 3) || (i = 0x2202 && 1 ≤ sub && sub ≤ 4)

-- counters

/-- R533: counters and gauges. -/
def isCounter (i sub : Nat) : Bool := (0x4000 ≤ i && i ≤ 0x4008) || (i = 0x2500 && sub = 4)

-- reads

/-- R533: a counter or gauge as the latest refresh has it. -/
def refreshed (s : State) (k : Nat) : Nat :=
  shownCtr s k (if k = fillKey then fillGauge s (fill s) else if k = rowsKey then rowsThen s else tget 0 s.mgmt.ctr k)

/-- Who asks (R520): the CAN FD port, or a session. -/
inductive Client where
  | can
  | session (id : Nat)
  deriving DecidableEq, Repr

/-- R520: the window selectors of a client. -/
def winsOf (s : State) (cl : Client) : Tbl Nat :=
  match cl with
  | .can => s.mgmt.canWins
  | .session id => (match s.sessions.find? fun x => x.id = id with | some x => x.wins | none => [])

def window (s : State) (cl : Client) (i : Nat) (sub : Nat) : Nat := tget 0 (winsOf s cl) (i * 256 + sub)

def setWindow (s : State) (cl : Client) (i sub v : Nat) : State :=
  match cl with
  | .can => { s with mgmt := { s.mgmt with canWins := tset s.mgmt.canWins (i * 256 + sub) v } }
  | .session id =>
    (match s.sessions.find? fun x => x.id = id with
     | some x => putSession s { x with wins := tset x.wins (i * 256 + sub) v }
     | none => s)

/-- ASCII. -/
def ascii (t : String) : List Byte := t.toList.map fun c => BitVec.ofNat 8 c.toNat
def hexDigit (n : Nat) : Byte := BitVec.ofNat 8 (if n < 10 then 48 + n else 55 + n)
def decDigits (n : Nat) : List Byte := (toString n).toList.map fun c => BitVec.ofNat 8 c.toNat

def devName : Variant → List Byte
  | .g => ascii "BZ8600-G"
  | .m => ascii "BZ8600-M"
  | .e => ascii "BZ8600-E"

def productCode : Variant → Nat
  | .g => 0x860047
  | .m => 0x86004D
  | .e => 0x860045

/-- R547: cell status. -/
def cellStatus (s : State) (n : Nat) : Nat :=
  let x := getCell s n
  let rated := decide (n < ratedCells s.part.variant)
  let st := if !rated then 5 else match x.svc with
    | .drained => 1
    | .selfTest => 2
    | .remap => 3
    | .lost => 4
    | .ok => if x.rdy then 0 else 6
  let acc := ((ledger s).filter fun e => e.2.lane / 4 = n).length
  st * 2 ^ 28 + x.cur * 2 ^ 24 + x.phys * 2 ^ 17 + b2n (rated && decide (ratedCells s.part.variant ≤ x.phys)) * 2 ^ 16 + acc

/-- R545: time state. -/
def timeState (s : State) : Nat :=
  if !s.time.running then 0 else if slewLeft s ≠ 0 && s.time.ppm ≠ 0 then 2 else 1

def intNum (v : Int) : OVal := .num 8 (BitVec.ofInt 64 v).toNat
def wordVal (w : Word) : OVal := .num 8 w.toNat

/-- The key window's eight entries. -/
def keyWindow (s : State) (cl : Client) : Nat := window s cl 0x2602 1

/-- R534 to R550: what an object that can be read holds; none for a report that does not exist. -/
def objValue (s : State) (cl : Client) (i sub : Nat) : Option OVal :=
  if isCount i sub then some (.num 1 ((subTop i).getD 0))
  else if isCounter i sub then
    some (.num (if i = 0x2500 then 2 else 8) (refreshed s (i * 256 + sub)))
  else if 0x3000 ≤ i && i < 0x4000 then
    let ws := selEntry s (i - 0x3000)
    some (.raw (((List.range 16).map fun k => ws.getD k 0).flatMap wordBytes))
  else match i, sub with
    | 0x1000, _ => some (.num 4 0)
    | 0x1001, _ => some (.num 1 (errReg s))
    | 0x1003, 0 => some (.num 1 s.mgmt.errs.length)
    | 0x1003, k => some (.num 4 ((s.mgmt.errs.getD (k - 1) 0)).toNat)
    | 0x1008, _ => some (.raw (devName s.part.variant))
    | 0x1009, _ => some (.raw (ascii "S" ++ decDigits s.part.stepping))
    | 0x100A, _ => some (.raw (([3, 2, 1, 0] : List Nat).map fun k => hexDigit (s.boot.stVersion / 16 ^ k % 16)))
    | 0x1014, _ => some (.num 4 (0x80 + s.mgmt.nodeUse))
    | 0x1017, _ => some (.num 2 s.mgmt.hbMs)
    | 0x1018, 1 => some (.num 4 0xD53)
    | 0x1018, 2 => some (.num 4 (productCode s.part.variant))
    | 0x1018, 3 => some (.num 4 (s.part.stepping * 65536))
    | 0x1018, _ => some (.num 4 (s.part.serial.toNat % 2 ^ 32))
    | 0x1200, k => some (.num 4 ((if k = 1 then 0x600 else 0x580) + s.mgmt.nodeUse))
    | 0x2000, _ => some (wordVal s.part.serial)
    | 0x2001, _ => some (.num 4 (unitMask s.part.variant))
    | 0x2002, _ => some (.num 1 s.mgmt.nodeId)
    | 0x2003, _ => some (.num 8 (versions s))
    | 0x2010, 6 => some (.num 1 s.mgmt.bus)
    | 0x2010, k => some (.num (lenOf i k) (s.mgmt.canSet.getD (k - 1) 0))
    | 0x2100, 1 => some (wordVal (dladRead s))
    | 0x2100, 2 => some (wordVal (lresRead s))
    | 0x2100, 3 => some (.num 8 s.pwr.ticks)
    | 0x2100, _ => some (wordVal (frcopyRead s))
    | 0x2200, 1 => some (wordVal (bstatRead s))
    | 0x2200, 2 => some (.num 4 s.baro.src.toNat)
    | 0x2200, 3 => some (.num 1 s.baro.wdPeriod)
    | 0x2200, 4 => some (.num 2 (window s cl i 4))
    | 0x2200, _ => some (.raw (logEntry s (window s cl i 4)))
    | 0x2201, _ => some (.raw (beBytes 16 s.baro.nonce.toNat))
    | 0x2203, _ => some (.num 4 (s.baro.mogFrames * 65536 + s.baro.mogEmcy))
    | 0x2300, k => some (wordVal (pcfgRead s (k - 1)))
    | 0x2301, k => some (wordVal (pstatRead s (k - 1)))
    | 0x2400, 1 => some (wordVal s.pair.cfg)
    | 0x2400, 2 => some (wordVal s.pair.pserial)
    | 0x2400, 3 => some (wordVal s.pair.homemap)
    | 0x2400, 4 => some (wordVal s.pair.ownmap)
    | 0x2400, 5 => some (.num 8 s.pair.mapply)
    | 0x2400, 6 => some (wordVal (pairstatRead s))
    | 0x2400, _ => some (.num 2 s.pair.joinMs)
    | 0x2401, k => some (wordVal (tget 0 s.pair.adp (k - 1)))
    | 0x2500, 1 => some (.num 2 s.adm.retention)
    | 0x2500, 2 => some (.num 1 s.adm.gdepth)
    | 0x2500, 3 => some (.num 1 s.adm.drainHosts)
    | 0x2500, 5 => some (.num 1 s.adm.fullCls.toNat)
    | 0x2500, 6 => some (.num 2 (slotNs s))
    | 0x2500, _ => some (wordVal (regRead s .dcfg))
    | 0x2501, k => some (.num 4 (classBound (k - 1) / 1000))
    | 0x2600, 1 => some (wordVal (repochRead s))
    | 0x2600, 2 => some (wordVal (kfillRead s))
    | 0x2600, 3 => some (wordVal s.prot.jseal)
    | 0x2600, _ => some (wordVal s.prot.fseal)
    | 0x2601, 1 => some (.num 2 (window s cl i 1))
    | 0x2601, k => some (wordVal (regRead s (if k ≤ 3 then .shadow (window s cl i 1) (k = 3) else .active (window s cl i 1) (k = 5))))
    | 0x2602, 1 => some (.num 4 (keyWindow s cl))
    | 0x2602, _ => some (wordVal (regRead s (.keys (keyWindow s cl))))
    | 0x2700, 1 => some (.raw (identity s))
    | 0x2700, 2 => some (.raw s.boot.attEnd)
    | 0x2700, 4 => s.boot.report.map .raw
    | 0x2700, 5 => some (.raw s.boot.mlog.flatten)
    | 0x2700, 6 => some (.raw (fuseBlock s.boot))
    | 0x2700, 7 => some (.num 1 s.boot.life)
    | 0x2700, 8 => some (.num 1 (b2n s.boot.taint))
    | 0x2700, _ => some (.num 4 s.boot.sacc)
    | 0x2800, 1 => some (.num 8 (ledgerNow s))
    | 0x2800, 2 => some (.num 1 (timeState s))
    | 0x2800, 3 => some (intNum s.time.last)
    | 0x2800, 4 => some (intNum (slewLeft s))
    | 0x2800, _ => some (.num 1 (s.time.src.getD 0xFF))
    | 0x2801, 1 => some (.num 2 (window s cl i 1))
    | 0x2801, _ => some (.raw (beBytes 32 (poolOf s (window s cl i 1)).toNat))
    | 0x2900, n => some (.num 4 (cellStatus s n))
    | 0x2901, n => some (wordVal (cladRead s n))
    | 0x2902, n => some (.num 2 (if n < ratedCells s.part.variant then (BitVec.ofInt 16 (getCell s n).temp).toNat else 0))
    | 0x2903, 1 => some (.num 2 (window s cl i 1))
    | 0x2903, _ => some (.raw (recordBytes s (window s cl i 1)))
    | 0x2904, n => some (wordVal (ccfgRead s n false))
    | 0x2905, n => some (wordVal (ccfgRead s n true))
    | _, _ => some (.num 8 0)

/-- R122, R123: a value as a path carries it: big-endian on VC2, integers little-endian on CAN FD. -/
def valBytes (little : Bool) : OVal → List Byte
  | .num n v => if little then leBytes n v else beBytes n v
  | .raw bs => bs

-- what every request is held to first

/-- R532: whether the object exists; the abort code. -/
def objMissing (i sub : Nat) : Option Nat :=
  match subTop i with
  | none => some 0x06020000
  | some n => if n < sub then some 0x06090011 else none

/-- R531, R544: a read. Answers the abort code, or the value. -/
def objRead (s : State) (cl : Client) (i sub : Nat) : Except Nat OVal :=
  match objMissing i sub with
  | some a => .error a
  | none =>
    match objAcc i sub with
    | .wo | .sw => .error 0x06010001
    | _ => (match objValue s cl i sub with | some v => .ok v | none => .error 0x08000024)

-- writes

/-- A register write as a request sees it. -/
def ofReg (s : State) (w : Written) : State × Except Nat Accepted :=
  match w with
  | .ok t => (t, .ok (t, none, 0))
  | .error e => (refuseBy s e, .error e.abort)

/-- A plain setting, when its value is in range. -/
def ofRange (s : State) (ok : Bool) (t : State) : State × Except Nat Accepted :=
  if ok then (t, .ok (t, none, 0)) else (s, .error 0x06090030)

/-- A write of a table entry (R13, R49, R54). -/
def ofTable (s : State) (r : Except Nat (State × Nat)) : State × Except Nat Accepted :=
  match r with
  | .ok (t, w) => (t, .ok (t, some w, 0))
  | .error a => (tableRefused s a, .error a)

/-- R536: values of x2010:01 to :05. -/
def canSetOk (sub v : Nat) : Bool :=
  match sub with
  | 1 => ([125, 250, 500, 800, 1000] : List Nat).contains v
  | 2 => ([1000, 2000, 4000, 5000] : List Nat).contains v
  | 3 => v ≤ 2
  | 4 => 700 ≤ v && v ≤ 900
  | _ => 600 ≤ v && v ≤ 850

/-- R524: a node-ID; the first performs a communication reset. -/
def nodeIdSet (s : State) (v : Nat) : State :=
  let t := { s with mgmt := { s.mgmt with nodeId := v } }
  if s.mgmt.nodeId = 0 then commReset t else t

def clearErrors (s : State) : State := { s with mgmt := { s.mgmt with errs := [] } }

/-- R541: a partition handover, when the journal can take its record (R84); its answer waits for that record. -/
def handover (s : State) (mask : Word) : State × Except Nat Accepted :=
  if !handoverOk s mask then (s, .error 0x08000022)
  else if !sysRoom s 16 then (s, .error 0x08000020)
  else if mask = 0 then (s, .ok (s, none, 0))
  else (startMove s mask, .ok (startMove s mask, none, moveHold (s.pair.moveId + 1)))

/-- R328, R548: a FROZEN record returns to the pool. -/
def releaseFrozen (s : State) (n : Nat) : State × Except Nat Accepted :=
  if (getCtx s n).st = .frozen then (freeCtx s n, .ok (freeCtx s n, none, 0))
  else (s, .error (if 16384 ≤ n then 0x06090030 else 0x08000022))

/-- R542: GDEPTH, the duplicate retention and the drain hosts; GDEPTH refused in the present state counts as a
write that R13 refuses (R532). -/
def settingWrite (s : State) (sub v : Nat) : State × Except Nat Accepted :=
  match sub with
  | 1 => ofRange s (600 ≤ v && v ≤ 3600) { s with adm := { s.adm with retention := v } }
  | 2 =>
    if v = 0 || 4 < v then (s, .error 0x06090030)
    else if !noneAccepted s then (refuse s, .error 0x08000022)
    else ofRange s true { s with adm := { s.adm with gdepth := v } }
  | _ => ofRange s (1 ≤ v && v ≤ 4) (reclaim { s with adm := { s.adm with drainHosts := v } })

/-- The words of a selector entry as x3000 carries them. -/
def selWords (bs : List Byte) : List Word := (List.range 16).map fun k => BitVec.ofNat 64 (field bs (8 * k) 8)

/-- R536 to R549: a write of an object, whose data has the length of its type; `v` is its number. -/
def objApply (s : State) (cl : Client) (i sub : Nat) (bs : List Byte) (v : Nat) : State × Except Nat Accepted :=
  let w : Word := BitVec.ofNat 64 v
  if 0x3000 ≤ i && i < 0x4000 then
    match selectorWrite s (i - 0x3000) (selWords bs) with
    | .ok (t, n) => (t, .ok (t, some n, 0))
    | .error a => (tableRefused s a, .error a)
  else match i, sub with
    | 0x1003, _ => ofRange s (v = 0) (clearErrors s)
    | 0x1017, _ => ofRange s (v = 0 || 100 ≤ v) { s with mgmt := { s.mgmt with hbMs := v } }
    | 0x2002, _ => ofRange s (1 ≤ v && v ≤ 127) (nodeIdSet s v)
    | 0x2010, k => ofRange s (canSetOk k v) { s with mgmt := { s.mgmt with canSet := s.mgmt.canSet.set (k - 1) v } }
    | 0x2100, 1 => ofReg s (dladWrite s w)
    | 0x2100, 2 => ofReg s (lresWrite s w)
    | 0x2100, 3 => ofReg s (lwakeWrite s w)
    | 0x2100, _ => ofReg s (frcopyWrite s w)
    | 0x2200, 2 => ofReg s (balrtWrite s w)
    | 0x2200, 3 => ofReg s (periodWrite s v)
    | 0x2200, _ => ofRange s (v ≤ 2047) (setWindow s cl i 4 v)
    | 0x2202, k => signedWrite s k bs
    | 0x2300, k => ofReg s (pcfgWrite s (k - 1) w)
    | 0x2400, 1 => ofReg s (paircfgWrite s w)
    | 0x2400, 2 => ofReg s (pserialWrite s w)
    | 0x2400, 3 => ofReg s (homemapWrite s w)
    | 0x2400, _ => ofRange s (100 ≤ v && v ≤ 60000) { s with pair := { s.pair with joinMs := v } }
    | 0x2401, k => ofReg s (adpWrite s (k - 1) w)
    | 0x2402, _ => handover s w
    | 0x2500, 7 => ofReg s (dcfgSet s w)
    | 0x2500, k => settingWrite s k v
    | 0x2600, 1 => ofReg s (repochWrite s w)
    | 0x2600, 2 => ofReg s (kfillWrite s w)
    | 0x2600, 3 => ofReg s (jsealSet s w)
    | 0x2600, _ => ofReg s (fsealSet s w)
    | 0x2601, 1 => ofRange s (v ≤ 1023) (setWindow s cl i 1 v)
    | 0x2601, k => ofReg s (regionWrite s (window s cl i 1) (k = 3) w)
    | 0x2602, 1 => ofRange s (v ≤ 4194296 && v % 8 = 0) (setWindow s cl i 1 v)
    | 0x2602, _ => ofReg s (keyWrite s (keyWindow s cl) (wordBytes w))
    | 0x2700, _ => (match askReport s bs with | .ok t => (t, .ok (t, none, 0)) | .error a => (s, .error a))
    | 0x2801, 1 => ofRange s true (setWindow s cl i 1 v)
    | 0x2801, _ => ofTable s (gateWrite s (window s cl i 1) (BitVec.ofNat 256 (beNat bs)))
    | 0x2901, n => ofReg s (cladWrite s n w)
    | 0x2903, 1 => ofRange s (v ≤ 16383) (setWindow s cl i 1 v)
    | 0x2903, _ => releaseFrozen s v
    | 0x2904, n => ofReg s (ccfgWrite s n false w)
    | 0x2905, n => ofReg s (ccfgWrite s n true w)
    | _, _ => (s, .error 0x06010002)

/-- R518, R531, R532: a write over a path; the order of the aborts is that of R532. -/
def objWrite (s : State) (cl : Client) (i sub : Nat) (bs : List Byte) : State × Except Nat Accepted :=
  match objMissing i sub with
  | some a => (s, .error a)
  | none =>
    if objAcc i sub = .const || objAcc i sub = .ro then (s, .error 0x06010002)
    else if cl = .can && !canWritable i sub then (s, .error 0x08000021)
    else if bs.length ≠ lenOf i sub then (s, .error 0x06070010)
    else objApply s cl i sub bs (beNat (if cl = .can && !isRaw i sub then bs.reverse else bs))

end Sys2Proof.Machine
end

