-- ==== Sys2Proof/Machine/Mgmt.lean ====
section
/-! DEFINITION. The management plane on VC2 (R408, R517 to R532, R541): requests, their answers, and the writes
that have rows of their own. -/

namespace Sys2Proof.Machine

/-- R408: the word that an answer echoes. -/
def echoOf (idx : BitVec 16) (sub : Byte) (op : Nat) (id : BitVec 32) : Word :=
  packWord [(48, idx.toNat), (40, sub.toNat), (32, op), (0, id.toNat)]

/-- The session's unanswered requests gain one. -/
def pushAnswer (s : State) (p : Nat) (a : Answer) : State :=
  setPort s p { getPort s p with answers := (getPort s p).answers ++ [a] }

/-- An answer due at once. -/
def plainAnswer (s : State) (session : Nat) (echo : Word) (abort : Nat) (data : List Byte) : Answer :=
  ⟨session, echo, abort, data, none, 0, s.now⟩

/-- R408: an operation that does not match its object. -/
def wrongOp (idx sub : Nat) (signed : Bool) : Bool :=
  (objMissing idx sub).isNone && ((objAcc idx sub = .sw) != signed)

/-- R402, R408: an MRQ is taken from the ACTIVE session of a port; a ninth one is answered at once. -/
def takeMrq (s : State) (p : Nat) (good : Bool) (echo : Word) (bad : Bool) (f : Session → State) : Out :=
  if romHears s p then .next (malformed s p)
  else if !(alive s && portUp s p) then .next s
  else match activeSession s p with
    | none => .next (malformed s p)
    | some x =>
      if !good then .next (malformed s p)
      else if bad then .next (pushAnswer s p (plainAnswer s x.id echo 0x05040001 []))
      else if 8 ≤ (getPort s p).answers.length then .next (pushAnswer s p (plainAnswer s x.id echo 0x05040005 []))
      else .next (f x)

/-- A read, as it is when the request arrives (R519, R533). -/
def readFor (s : State) (cl : Client) (i sub : Nat) (little : Bool) : Except Nat (List Byte) :=
  match objRead s cl i sub with
  | .ok v => .ok (valBytes little v)
  | .error a => .error a

/-- R408: MRQ_READ. -/
def execMrqRead (p : Nat) (idx : BitVec 16) (sub : Byte) (id : BitVec 32) (good : Bool) (s : State) : Out :=
  takeMrq s p good (echoOf idx sub 1 id) false fun x =>
    let echo := echoOf idx sub 1 id
    match readFor s (.session x.id) idx.toNat sub.toNat false with
    | .ok bs => pushAnswer s p (plainAnswer s x.id echo 0 bs)
    | .error a => pushAnswer s p (plainAnswer s x.id echo a [])

/-- R519, R531: a write is applied, and its answer waits for what it must. -/
def writeFor (s : State) (p : Nat) (x : Session) (echo : Word) (i sub : Nat) (data : List Byte) : State :=
  match objWrite s (.session x.id) i sub data with
  | (_, .ok (t, w, hold)) => pushAnswer t p ⟨x.id, echo, 0, [], w, hold, s.now⟩
  | (t, .error a) => pushAnswer t p (plainAnswer s x.id echo a [])

/-- R408: MRQ_WRITE. -/
def execMrqWrite (p : Nat) (idx : BitVec 16) (sub : Byte) (id : BitVec 32) (data : List Byte) (good : Bool)
    (s : State) : Out :=
  let echo := echoOf idx sub 2 id
  takeMrq s p good echo (wrongOp idx.toNat sub.toNat false) fun x => writeFor s p x echo idx.toNat sub.toNat data

/-- R408: MRQ_SIGNED_WRITE. -/
def execMrqSignedWrite (p : Nat) (idx : BitVec 16) (sub : Byte) (id : BitVec 32) (data : List Byte) (good : Bool)
    (s : State) : Out :=
  let echo := echoOf idx sub 3 id
  takeMrq s p good echo (wrongOp idx.toNat sub.toNat true) fun x => writeFor s p x echo idx.toNat sub.toNat data

/-- R541, R546: an answer may leave: its change has taken effect, and the record it waits for is written. -/
def answerReady (s : State) (w : Option Nat) (hold : Nat) : Bool :=
  hold = 0 && (match w with | some t => !(s.adm.changes.any fun c => c.w = t) | none => true)

/-- R532, R550: an MRS leaves. -/
def sendMrs (s : State) (p : Nat) (a : Answer) : State :=
  let x := getPort s p
  let n := 16 + roundUp a.data.length 8
  if canSend s p 2 n then
    let s1 := sendOn (setPort s p { x with answers := x.answers.erase a }) p 2 n none (.mrs p a.echo a.abort a.data)
    if a.abort = 0 then s1 else bump s1 0x4000 0x12
  else s

/-- R541: an answer waits for the record of a move. -/
def awaitsMove (hold : Nat) : Bool := hold % 0x100 = 0x14

/-- R541: the move for which an answer waits is abandoned. -/
def dropMove (s : State) (hold : Nat) : State :=
  { s with pair := { s.pair with moves := s.pair.moves.filter fun m => m.recorded || moveHold m.id ≠ hold } }

/-- R541: at the 10 ms bound a move whose record is not written is abandoned. -/
def abandonMove (s : State) (p : Nat) (a : Answer) : State :=
  let s1 := passTo s (a.at' + 10 * milli)
  let b := { a with hold := 0, abort := 0x08000022 }
  let x := getPort s1 p
  let s1 := setPort s1 p { x with answers := x.answers.map fun q => if q = a then b else q }
  sendMrs (dropMove s1 a.hold) p b

/-- R408, R530: MRS, the first answer that may leave; with none, a handover has reached its bound. -/
def execMrs (p : Nat) (s : State) : Out :=
  let as := (getPort s p).answers
  if !(alive s && portActive s p) then .next s
  else match as.find? fun a => answerReady s a.w a.hold with
    | some a => .next (sendMrs s p a)
    | none =>
      match as.find? fun a => awaitsMove a.hold with
      | some a => .next (abandonMove s p a)
      | none => .next s

-- writes with rows of their own

/-- R548: RELEASE_FROZEN_RECORD. -/
def execReleaseFrozenRecord (n : Nat) (s : State) : Out := if alive s then .next (releaseFrozen s n).1 else .next s

/-- R534: ERROR_LIST_CLEAR. -/
def execErrorListClear (s : State) : Out := if alive s then .next (clearErrors s) else .next s

/-- R524, R536: NODE_ID_WRITE. -/
def execNodeIdWrite (v : Byte) (s : State) : Out :=
  if alive s && decide (1 ≤ v.toNat) && decide (v.toNat ≤ 127) then .next (nodeIdSet s v.toNat) else .next s

end Sys2Proof.Machine
end

