-- ==== Sys2Proof/Machine/CanBus.lean ====
section
/-! DEFINITION. The CAN FD port (R522 to R530): NMT, SDO, heartbeat and bus state. -/

namespace Sys2Proof.Machine

/-- R501: a frame wakes a device in Breeze or Drizzle. -/
def canTouch (s : State) : State := if canUp s then stir s 0x0A else s

-- NMT

/-- R524, R525: an NMT command addressed to all nodes or to the device. -/
def nmtCommand (s : State) (node : Byte) (f : State → State) : Out :=
  let s := canTouch s
  if canUp s && (node = 0 || decide (node.toNat = s.mgmt.nodeUse)) then .next (f s) else .next s

def setNmt (n : Nmt) (s : State) : State := { s with mgmt := { s.mgmt with nmt := n } }

def execNmtStartRemoteNode (node : Byte) (s : State) : Out := nmtCommand s node (setNmt .operational)
def execNmtStopRemoteNode (node : Byte) (s : State) : Out := nmtCommand s node (setNmt .stopped)
def execNmtEnterPreOperational (node : Byte) (s : State) : Out := nmtCommand s node (setNmt .preOperational)
def execNmtResetNode (node : Byte) (s : State) : Out := nmtCommand s node commReset
def execNmtResetCommunication (node : Byte) (s : State) : Out := nmtCommand s node commReset

-- SDO

/-- R525: SDO runs in Pre-operational and Operational. -/
def sdoUp (s : State) : Bool := canUp s && (s.mgmt.nmt = .preOperational || s.mgmt.nmt = .operational)

/-- An SDO request frame of the client. -/
def sdoRequest (s : State) (f : State → State) : Out :=
  let s := canTouch s
  if sdoUp s then .next (f s) else .next s

def setXfer (s : State) (x : Option SdoXfer) : State := { s with mgmt := { s.mgmt with sdo := x } }

/-- An answer is owed, in the format `fd` of its request (R522). -/
def oweSdo (s : State) (fd : Bool) (idx sub abort : Nat) (data : List Byte) : State :=
  { s with mgmt := { s.mgmt with sdoAns := s.mgmt.sdoAns ++ [⟨idx, sub, abort, data, s.now, none, 0, fd⟩] } }

/-- R529: SDO_INITIATE_UPLOAD; more than four bytes open a segmented transfer, whose answer gives the size. -/
def execSdoInitiateUpload (idx : SdoIndex) (sub : Byte) (s : State) : Out :=
  sdoRequest s fun s =>
    let i := idx.idx.toNat
    let k := sub.toNat
    let s := setXfer s none
    match readFor s .can i k true with
    | .ok bs =>
      if bs.length ≤ 4 then oweSdo s idx.fd i k 0 bs
      else oweSdo (setXfer s (some ⟨i, k, true, bs, false, s.now, idx.fd⟩)) idx.fd i k 0 (leBytes 4 bs.length)
    | .error a => oweSdo s idx.fd i k a []

/-- R529, R531: a whole write over CAN FD. -/
def canWrite (s : State) (fd : Bool) (i k : Nat) (bs : List Byte) : State :=
  match objWrite s .can i k bs with
  | (_, .ok (t, w, hold)) =>
    { t with mgmt := { t.mgmt with sdoAns := t.mgmt.sdoAns ++ [⟨i, k, 0, [], s.now, w, hold, fd⟩] } }
  | (t, .error a) => oweSdo t fd i k a []

/-- R532: what refuses a segmented write at its initiate. -/
def canWriteFail (i k size : Nat) : Option Nat :=
  match objMissing i k with
  | some a => some a
  | none =>
    if objAcc i k = .const || objAcc i k = .ro then some 0x06010002
    else if !canWritable i k then some 0x08000021
    else if size ≠ 0 && size ≠ lenOf i k then some 0x06070010
    else none

/-- R529: SDO_INITIATE_DOWNLOAD. -/
def execSdoInitiateDownload (idx : SdoIndex) (sub : Byte) (expedited : Bool) (size : Nat) (data : List Byte)
    (s : State) : Out :=
  sdoRequest s fun s =>
    let i := idx.idx.toNat
    let k := sub.toNat
    let s := setXfer s none
    if expedited then canWrite s idx.fd i k data
    else match canWriteFail i k size with
      | some a => oweSdo s idx.fd i k a []
      | none => oweSdo (setXfer s (some ⟨i, k, false, [], false, s.now, idx.fd⟩)) idx.fd i k 0 []

/-- R529: a segment of the open transfer of its direction, with its toggle bit. -/
def segment (s : State) (up : Bool) (q : SdoToggle) (f : SdoXfer → State) : State :=
  match s.mgmt.sdo with
  | some x =>
    if x.up ≠ up then oweSdo s q.fd x.idx x.sub 0x05040001 []
    else if x.toggle ≠ q.toggle then oweSdo (setXfer s none) q.fd x.idx x.sub 0x05030000 []
    else f { x with toggle := !x.toggle, at' := s.now, fd := q.fd }
  | none => oweSdo s q.fd 0 0 0x05040001 []

/-- R529: SDO_UPLOAD_SEGMENT, 7 bytes. -/
def execSdoUploadSegment (toggle : SdoToggle) (s : State) : Out :=
  sdoRequest s fun s => segment s true toggle fun x =>
    let rest := x.data.drop 7
    oweSdo (setXfer s (if rest = [] then none else some { x with data := rest })) x.fd x.idx x.sub 0 (x.data.take 7)

/-- R529: SDO_DOWNLOAD_SEGMENT; the last one applies the write. -/
def execSdoDownloadSegment (toggle : SdoToggle) (data : List Byte) (last : Bool) (s : State) : Out :=
  sdoRequest s fun s => segment s false toggle fun x =>
    let bs := x.data ++ data.take 7
    if last then canWrite (setXfer s none) x.fd x.idx x.sub bs
    else oweSdo (setXfer s (some { x with data := bs })) x.fd x.idx x.sub 0 []

/-- R524, R529, R532: SDO_BLOCK_INITIATE. -/
def execSdoBlockInitiate (idx : SdoIndex) (sub : Byte) (s : State) : Out :=
  sdoRequest s fun s => oweSdo (setXfer s none) idx.fd idx.idx.toNat sub.toNat 0x05040001 []

/-- R529: SDO_SEGMENT_TIMEOUT, after 1 s. -/
def execSdoSegmentTimeout (s : State) : Out :=
  match s.mgmt.sdo with
  | some x =>
    if sdoUp s then .next (oweSdo (setXfer (passTo s (x.at' + second)) none) x.fd x.idx x.sub 0x05040000 []) else .next s
  | none => .next s

/-- R463, R532: an SDO answer leaves. -/
def sendSdo (s : State) (a : SdoAnswer) : State :=
  let s1 := { s with mgmt := { s.mgmt with sdoAns := s.mgmt.sdoAns.erase a } }
  let s1 := if a.abort ≠ 0 && frameFits s false then bump s1 0x4000 0x12 else s1
  canFrame s1 false (.sdo a.fd s.mgmt.nodeUse a.idx a.sub a.abort a.data)

/-- R541: at the 10 ms bound a move whose record is not written is abandoned. -/
def abandonSdo (s : State) (a : SdoAnswer) : State :=
  let b := { a with hold := 0, abort := 0x08000022 }
  let s1 := dropMove (passTo s (a.at' + 10 * milli)) a.hold
  sendSdo { s1 with mgmt := { s1.mgmt with sdoAns := s1.mgmt.sdoAns.map fun q => if q = a then b else q } } b

/-- R463, R530: SDO_RESPONSE, the first answer that may leave; with none, a handover has reached its bound. -/
def execSdoResponse (s : State) : Out :=
  if !sdoUp s then .next s
  else match s.mgmt.sdoAns.find? fun a => answerReady s a.w a.hold with
    | some a => .next (sendSdo s a)
    | none =>
      match s.mgmt.sdoAns.find? fun a => awaitsMove a.hold with
      | some a => .next (abandonSdo s a)
      | none => .next s

-- heartbeat and bus state

/-- R526: the state a heartbeat carries. -/
def nmtCode : Nmt → Nat
  | .preOperational => 0x7F
  | .operational => 0x05
  | .stopped => 0x04
  | .initialising => 0x00

/-- R526: HEARTBEAT, one period after the boot-up frame or the heartbeat before. -/
def execHeartbeat (s : State) : Out :=
  if canUp s && s.mgmt.hbMs ≠ 0 then
    let s1 := passTo s (s.mgmt.hbAt + s.mgmt.hbMs * milli)
    .next (canFrame { s1 with mgmt := { s1.mgmt with hbAt := s1.now } } false (.heartbeat (fdFrames s) s.mgmt.nodeUse (nmtCode s.mgmt.nmt)))
  else .next s

/-- R528: BUS_OFF. -/
def execBusOff (s : State) : Out :=
  if canUp s then .next (notice { s with mgmt := { s.mgmt with bus := 2, sdo := none, sdoAns := [] } } 0x0B) else .next s

/-- R528, R527: BUS_OFF_RECOVERY. -/
def execBusOffRecovery (s : State) : Out :=
  if alive s && s.mgmt.bus = 2 then
    .next (notice (emcy { s with mgmt := { s.mgmt with bus := 0 } } 0x8140 0 0 0) 0x0C)
  else .next s

/-- R535, R536: ERROR_PASSIVE. -/
def execErrorPassive (on : Bool) (s : State) : Out :=
  if canUp s then .next { s with mgmt := { s.mgmt with bus := b2n on } } else .next s

end Sys2Proof.Machine
end

