-- ==== Sys2Proof/Machine/CoreEvents.lean ====
section
/-! DEFINITION. Events of the cores: exception entry, budget, preemption, dispatch, far accesses, fetch,
store buffer and mesh (R20, R61, R68, R91, R274 to R282, R328 to R332, R346, R350). -/

namespace Sys2Proof.Machine

/-- Core `c` runs a context and the device is in service. -/
def coreUp (s : State) (c : Nat) : Bool := alive s && coreExists s c && !(getCore s c).dead

/-- A far access of the core awaits its verdict. -/
def verdictOut (s : State) (c : Nat) : Bool := (getCore s c).verdict.isSome

/-- The abort window of the running context has ended (R68): the STOP comes before anything else. -/
def stopDue (s : State) (c : Nat) : Bool :=
  match (getCore s c).running with
  | some n => (getCtx s n).base.ovr && ((getCtx s n).win = 0 || (getCore s c).cut.isSome)
  | none => false

/-- R350: what the core takes at its sampling point when no STOP and no preemption comes first. -/
def entryOf (s : State) (c : Nat) : Option Pend :=
  match (getCore s c).running with
  | none => none
  | some n =>
    match (getCore s c).exc, lateDue (getCtx s n) with
    | some e, _ => some e
    | none, some a => some (poisonPend (curBank s c).ia a.1)
    | none, none =>
      if (getCtx s n).ovrp && (getCtx s n).exc.isNone then some (overrunPend s c n) else none

/-- What EXCEPTION_ENTRY takes is no longer recorded: a spoiled load (R163), else the BUDGET_OVERRUN, which empties the
far-read buffer. -/
def taken (s : State) (c n : Nat) : State :=
  let x := getCtx s n
  if (getCore s c).exc.isSome then s
  else match lateDue x with
    | some a => setCtx s n { x with late := x.late.erase (x.level, a.1, a.2) }
    | none => setCtx s n { x with ovrp := false, frb := [], frbAt := 0, frbBy := [] }

/-- The time at which a pending exception is met: the boundary, or in a wait that follows it the arrival of what raised
it. -/
def entryTime (s : State) (c n : Nat) : Nat :=
  let k := getCore s c
  match k.exc, lateDue (getCtx s n) with
  | none, some a => max (boundary k) (a.2 * cyc)
  | _, _ => boundary k

/-- R276, R277, R279: at a sampling point at time `t` no fetch waits, and no pre-read; the words of one that has started
stay outstanding. -/
def leaveWaits (s : State) (c t : Nat) : State :=
  let s := leavePre s c t
  setCore s c { getCore s c with fetchWait := [] }

/-- R346, R350: EXCEPTION_ENTRY of what the core samples first. The spec gives no entry for
an exception of a steward core or of a steward entry (log entry 2). -/
def execExceptionEntry (c : Nat) (s : State) : Out :=
  let k := getCore s c
  if coreUp s c && !onCtx s c && k.exc.isSome then .fault .stewardException
  else if !coreUp s c || 256 ≤ c || k.preempt || verdictOut s c || stopDue s c then .next s
  else match k.running, entryOf s c with
    | some n, some e =>
      let t := entryTime s c n
      .next (enterExc (leaveWaits (taken s c n) c t) c (sampledAt k t) e)
    | _, _ => .next s

/-- The core waits at a boundary (R279): for a pre-read, a fetch, a pending register or one whose data came after the
boundary, a place in its store buffer, or with no room in its far-access queue for an access of two words. -/
def waitsAt (s : State) (c n : Nat) : Bool :=
  let k := getCore s c
  let x := getCtx s n
  let b := curBank s c
  let after := fun (t : Tbl Nat) => t.any fun e => boundary k < e.2 * cyc
  k.preWait ≠ [] || k.fetchWait ≠ [] || b.pend ≠ 0 || x.pendF ≠ 0 || preOut k n || k.sched.stores ≠ [] ||
  after b.arr || after x.arrF || decide (boundary k < x.frbAt * cyc) || decide (32 < farWords k + 2)

/-- Cycles from the last retirement to the boundary at which a core waits. -/
def boundaryLag (k : Core) : Nat := (boundary k - k.freeAt) / cyc

/-- R68, R279: the counter of a context that waits at a boundary runs out there, or before the boundary comes; the
pre-read, once its verdict is there, and the fetch are dropped, and the far-read buffer is emptied. -/
def execBudgetOverrun (c : Nat) (s : State) : Out :=
  let k := getCore s c
  match k.running with
  | none => .next s
  | some n =>
    let x := getCtx s n
    let t := max (boundary k) (k.freeAt + x.bcnt * cyc)
    if coreUp s c && decide (c < 256) && !x.base.ovr && !verdictOut s c &&
       (waitsAt s c n || decide (x.bcnt ≤ boundaryLag k)) then
      let s1 := spendTo (leaveWaits s c t) c (sampledAt k t) 0
      .next (clearFrb (setCore s1 c { getCore s1 c with far := dropPre (getCore s1 c).far n }) c)
    else .next s

/-- R332: the bytes of the abandoned instruction or unit that reached storage: of the bytes it would have written, those
that the command says did (log entry 14). -/
def abandoned (s : State) (reached : List Bool) (ws : List (Nat × Byte × Byte)) : State :=
  (reached.zip ws).foldl (fun t e => if e.1 then { t with mem := wrByte t.mem e.2.1 e.2.2.1 e.2.2.2 } else t) s

/-- R68, R332: STOP at the end of the abort window. -/
def execStop (c : Nat) (reached : List Bool) (s : State) : Out :=
  let k := getCore s c
  match k.running with
  | none => .next s
  | some n =>
    let x := getCtx s n
    if coreUp s c && decide (c < 256) && x.base.ovr then
      let t := k.freeAt + x.win * cyc
      let ws := k.cut.getD []
      let s1 := setCore (passTo (setCtx s n { x with win := 0 }) t) c { k with cut := none }
      let s1 := drainAll (abandoned s1 reached ws) c
      let s1 := setCore s1 c { getCore s1 c with freeAt := t, sched := Sched.fresh (t / cyc) }
      .next (dropRunning (endTx s1 n .ending 2 0x17 []) c)
    else .next s

/-- R61, R282, R331: PREEMPTION at a sampling point: at a boundary that the request has come before, or in a wait. -/
def execPreemption (c : Nat) (s : State) : Out :=
  let k := getCore s c
  match k.running with
  | none => .next s
  | some n =>
    if coreUp s c && decide (c < 256) && k.preempt && !verdictOut s c && !stopDue s c &&
       (decide (k.preAt ≤ boundary k) || waitsAt s c n) then
      match nextReady s c (some n) with
      | some m =>
        if (getCtx s m).dl < (getCtx s n).dl && cellAwake s c then
          .next (switchIn (switchOut s c (max (boundary k) k.preAt)) c m (holdsBanks (getCtx s n)))
        else .next (setCore s c { k with preempt := false })
      | none => .next (setCore s c { k with preempt := false })
    else .next s

/-- R61: DISPATCH of the first READY context of the lane. -/
def execDispatch (c : Nat) (s : State) : Out :=
  let k := getCore s c
  if coreUp s c && decide (c < 256) && k.running.isNone && k.exc.isNone && !verdictOut s c && cellAwake s c then
    match nextReady s c none with
    | some m => .next (switchIn (leaveOwn s c) c m false)
    | none => .next s
  else .next s

/-- R275: FAR_VERDICT. A refused access raises its exception at the verdict; any other retires there, a
load with its register pending. -/
def execFarVerdict (c : Nat) (s : State) : Out :=
  let k := getCore s c
  match k.verdict with
  | some w =>
    if !coreUp s c then .next s
    else
      let t := w.acc.start + 64 * cyc
      match w.fail with
      | some e =>
        let s := if w.sealHit then bump s 0x4000 3 else s
        let s := clearFrb (holdCore s c ((t - k.freeAt) / cyc) w.skip) c
        .next (setCore (passTo s t) c { getCore s c with
          verdict := none, exc := some e, freeAt := t, sched := Sched.fresh (t / cyc) })
      | none =>
        let s := match w.acc.kind with
          | .loadG _ _ (some r) .. =>
            pendG (setCore s c { k with far := dropFarG k.far (ctxLevel s c).1 (ctxLevel s c).2 r }) c r
          | .loadF _ _ (some r) .. =>
            pendFReg (setCore s c { k with far := dropFarF k.far (ctxLevel s c).1 r }) c r
          | _ => s
        let t := w.ret * cyc
        let s := holdCore s c ((t - k.freeAt) / cyc) w.skip
        let s := setBank s c ({ curBank s c with ia := w.next }.setUip false)
        let s := setCore (passTo s t) c { getCore s c with verdict := none, freeAt := t }
        .next (pushFar s c w.acc)
  | none => .next s

/-- The oldest far access is a load. -/
def oldestLoad (k : Core) : Bool :=
  match k.far with
  | f :: _ => (match f.kind with | .store _ | .heal .. => false | .loadG .. | .loadF .. | .pre .. => true)
  | [] => false

/-- The address of the oldest far access. -/
def oldestAddr (k : Core) : Nat :=
  match k.far with
  | f :: _ => (match f.kind with
    | .store w | .heal _ _ w => w.a
    | .loadG _ _ _ a .. | .loadF _ _ _ a _ => a
    | .pre _ ws => ws.headD 0 * 8)
  | [] => 0

/-- R91, R275, R327: FAR_DATA_ARRIVAL; the data of the oldest far load reaches its register. -/
def execFarDataArrival (c : Nat) (err : DramErr) (s : State) : Out :=
  let k := getCore s c
  if coreUp s c && oldestLoad k then
    let s1 := completeOldest s c err
    .next (dramReport s1 err (oldestAddr k))
  else .next s

/-- R275: FAR_WRITE_ACKNOWLEDGEMENT of the oldest posted write. -/
def execFarWriteAcknowledgement (c : Nat) (s : State) : Out :=
  let k := getCore s c
  if coreUp s c && !(oldestLoad k) && k.far ≠ [] then .next (completeOldest s c .clean) else .next s

/-- R276: FAR_PRE_READ; one round of 640 cycles. -/
def execFarPreRead (c : Nat) (err : DramErr) (s : State) : Out :=
  let k := getCore s c
  if coreUp s c && k.preWait ≠ [] then
    let t := k.waitAt + 640 * cyc
    let s1 := landPre s c (ctxLevel s c).1 err k.preWait (t / cyc)
    let hist := ((k.waitAt / cyc, k.preWait.length) :: k.hist).take 32
    let s1 := setCore (passTo s1 t) c { getCore s1 c with preWait := [], hist := hist }
    .next (dramReport s1 err (k.preWait.headD 0 * 8))
  else .next s

/-- R278, R91: DRAM_LINE_FETCH; the lines arrive after 640 cycles, and an uncorrectable error among
them raises MACHINE_CHECK with INFO x27. -/
def execDramLineFetch (c : Nat) (err : DramErr) (s : State) : Out :=
  let k := getCore s c
  if coreUp s c && k.fetchWait ≠ [] then
    let t := k.waitAt + 640 * cyc
    let a := k.fetchWait.headD 0 * 64
    let k1 := { k with lines := k.fetchWait, fetchWait := [], sched := Sched.fresh (t / cyc) }
    let s1 := dramReport (setCore (passTo s t) c k1) err a
    if err = .double then takeExc s1 c 0 (Exc.mk3 0x1E 0x27 0) else .next s1
  else .next s

/-- R274: STORE_BUFFER_DRAIN of the oldest entry. -/
def execStoreBufferDrain (c : Nat) (s : State) : Out :=
  if coreUp s c then .next (drainOne s c) else .next s

/-- The transfer due first. -/
def firstXfer (xs : List Xfer) : Option Xfer :=
  xs.foldl (fun m x => match m with | some y => if x.due < y.due then some x else m | none => some x) none

/-- R20: MESH_TRANSFER_DELIVERY at the moment the transfer is due. -/
def execMeshTransferDelivery (s : State) : Out :=
  match firstXfer s.mesh with
  | some x => if alive s then .next (passTo { s with mesh := s.mesh.erase x } x.due) else .next s
  | none => .next s

end Sys2Proof.Machine
end

