-- ==== Sys2Proof/Machine/Decimal.lean ====
section
/-! DEFINITION. Decimal formats: declets (R191), packed, zoned and declet-string fields (R193 to
R198), DEC payloads (R157). Digits are lists, most significant first. -/

namespace Sys2Proof.Machine

/-- R191: the value of a declet, all 1,024 codes. -/
def decletVal (x : Nat) : Nat :=
  let p := x / 128 % 8
  let s := x / 16 % 8
  let w := x % 8
  let big (n : Nat) := 8 + n % 2
  let d : Nat × Nat × Nat :=
    if x / 8 % 2 = 0 then (p, s, w)
    else match w / 2 with
      | 0 => (p, s, big w)
      | 1 => (p, big s, s / 2 * 2 + w % 2)
      | 2 => (big p, s, p / 2 * 2 + w % 2)
      | _ => match s / 2 with
        | 0 => (big p, big s, p / 2 * 2 + w % 2)
        | 1 => (big p, p / 2 * 2 + s % 2, big w)
        | 2 => (p, big s, big w)
        | _ => (big p, big s, big w)
  d.1 * 100 + d.2.1 * 10 + d.2.2

/-- R192: the canonical declet of a value below 1,000. -/
def decletOf (n : Nat) : Nat :=
  let d2 := n / 100 % 10
  let d1 := n / 10 % 10
  let d0 := n % 10
  let code (p s v w : Nat) := p * 128 + s * 16 + v * 8 + w
  match decide (8 ≤ d2), decide (8 ≤ d1), decide (8 ≤ d0) with
  | false, false, false => code d2 d1 0 d0
  | false, false, true => code d2 d1 1 (d0 % 2)
  | false, true, false => code d2 (d0 / 2 * 2 + d1 % 2) 1 (2 + d0 % 2)
  | false, true, true => code d2 (4 + d1 % 2) 1 (6 + d0 % 2)
  | true, false, false => code (d0 / 2 * 2 + d2 % 2) d1 1 (4 + d0 % 2)
  | true, false, true => code (d1 / 2 * 2 + d2 % 2) (2 + d1 % 2) 1 (6 + d0 % 2)
  | true, true, false => code (d0 / 2 * 2 + d2 % 2) (d1 % 2) 1 (6 + d0 % 2)
  | true, true, true => code (d2 % 2) (6 + d1 % 2) 1 (6 + d0 % 2)

/-- Value of the low `n` declets of a number. -/
def decletsVal : Nat → Nat → Nat
  | 0, _ => 0
  | n + 1, x => decletVal (x % 1024) + 1000 * decletsVal n (x / 1024)

/-- The low `n` declets of a value, as one number. -/
def decletsOf : Nat → Nat → Nat
  | 0, _ => 0
  | n + 1, v => decletOf (v % 1000) + 1024 * decletsOf n (v / 1000)

/-- R193: a sign code is xA to xF; xD and xB are minus. -/
def signOk (c : Nat) : Bool := 10 ≤ c
def signNeg (c : Nat) : Bool := c = 11 || c = 13
/-- R198: the sign code of a result. -/
def signOf (v : Int) : Nat := if v < 0 then 13 else 12

/-- Signed value from a sign code and a magnitude. -/
def signed (c m : Nat) : Int := if signNeg c then - (m : Int) else m

/-- The nibbles of a byte string, high first. -/
def nibbles (bs : List Byte) : List Nat := bs.flatMap fun b => [b.toNat / 16, b.toNat % 16]

/-- Digits to a number. -/
def digitsVal (ds : List Nat) : Nat := ds.foldl (fun a d => a * 10 + d) 0

/-- The low `n` digits of a number, most significant first. -/
def digitsOf : Nat → Nat → List Nat
  | 0, _ => []
  | n + 1, v => v / 10 ^ n % 10 :: digitsOf n v

/-- Format of a decimal memory operand (R137 FMT). -/
inductive DFmt where
  | packed | zoned | declets
  deriving DecidableEq, Repr

/-- R195: the declet count of a declet string of `l` bytes, or none for a reserved length. -/
def decletCount (l : Nat) : Option Nat :=
  let n := (8 * l - 4) / 10
  if 1 ≤ n ∧ n ≤ 21 ∧ l = cdiv (4 + 10 * n) 8 then some n else none

/-- R201: the length limits of a format. -/
def fmtLenOk (f : DFmt) (l : Nat) : Bool :=
  match f with
  | .packed => 1 ≤ l && l ≤ 32
  | .zoned => 1 ≤ l && l ≤ 64
  | .declets => (decletCount l).isSome

/-- R205: the digits a field of `l` bytes holds. -/
def fmtDigits (f : DFmt) (l : Nat) : Nat :=
  match f with
  | .packed => 2 * l - 1
  | .zoned => l
  | .declets => 3 * (decletCount l).getD 0

/-- Index of the first element that fails a test. -/
def firstBad {α : Type} (p : α → Bool) : List α → Option Nat
  | [] => none
  | a :: r => if p a then (firstBad p r).map (· + 1) else some 0

/-- The value of a packed field, or the offset of its first invalid byte (R193, R197). -/
def packedVal (bs : List Byte) : Except Nat Int :=
  let ns := nibbles bs
  let ds := ns.dropLast
  let sg := ns.getLastD 0
  match firstBad (fun d => decide (d < 10)) ds with
  | some i => .error (i / 2)
  | none =>
    if signOk sg then .ok (signed sg (digitsVal ds)) else .error (bs.length - 1)

/-- The value of a zoned field (R194, R197). -/
def zonedVal (bs : List Byte) : Except Nat Int :=
  let ds := bs.map fun b => b.toNat % 16
  let sg := (bs.getLastD 0).toNat / 16
  match firstBad (fun d => decide (d < 10)) ds with
  | some i => .error i
  | none => if signOk sg then .ok (signed sg (digitsVal ds)) else .error (bs.length - 1)

/-- The value of a declet string (R195 to R197): the sign byte, then zero pad bits, then declets. -/
def decletsStrVal (bs : List Byte) : Except Nat Int :=
  let l := bs.length
  let n := (decletCount l).getD 0
  let v := beNat bs
  let sg := v / 2 ^ (8 * l - 4)
  let pad := v % 2 ^ (8 * l - 4) / 2 ^ (10 * n)
  if !signOk sg then .error 0
  else if pad ≠ 0 then
    -- the pad bits lie in the low nibble of byte 0 and in byte 1
    .error (if v % 2 ^ (8 * l - 4) / 2 ^ (8 * l - 8) ≠ 0 ∧
               pad / 2 ^ ((8 * l - 8) - 10 * n) ≠ 0 then 0 else 1)
  else .ok (signed sg (decletsVal n v))

/-- The value of a decimal field. -/
def fmtVal (f : DFmt) (bs : List Byte) : Except Nat Int :=
  match f with
  | .packed => packedVal bs
  | .zoned => zonedVal bs
  | .declets => decletsStrVal bs

/-- Bytes of a list of nibbles, taken in pairs. -/
def nibBytes : List Nat → List Byte
  | a :: b :: r => BitVec.ofNat 8 (a * 16 + b) :: nibBytes r
  | _ => []

/-- R192, R194, R198: the field of `l` bytes that holds sign code `sg` and the low digits of `m`. -/
def fmtBytes (f : DFmt) (l sg m : Nat) : List Byte :=
  match f with
  | .packed => nibBytes (digitsOf (2 * l - 1) m ++ [sg])
  | .zoned =>
    let ds := digitsOf l m
    ds.dropLast.map (fun d => BitVec.ofNat 8 (0x30 + d)) ++ [BitVec.ofNat 8 (sg * 16 + m % 10)]
  | .declets =>
    let n := (decletCount l).getD 0
    beBytes l (sg * 2 ^ (8 * l - 4) + decletsOf n m)

/-- The low digits of a result that fit its destination, and the sign that goes with them (R205). -/
def fitDigits (digits : Nat) (v : Int) : Nat × Nat :=
  let m := v.natAbs % 10 ^ digits
  (if m = 0 then 12 else signOf v, m)

/-- R157: the value of a DEC payload; none when its sign code is invalid. -/
def decVal (p : Word) : Option Int :=
  if signOk (fld p 63 60) then some (signed (fld p 63 60) (decletsVal 6 (fld p 59 0))) else none

/-- The canonical DEC payload of a value of at most 18 digits. -/
def decPay (v : Int) : Word :=
  BitVec.ofNat 64 (signOf v * 2 ^ 60 + decletsOf 6 v.natAbs)

-- residues (R212; log entry 114)

/-- R212: the residue of a value; a minus value's is m - r. -/
def residue (m : Nat) (v : Int) : Nat := (v % m).toNat

/-- R212: the modulus that checks a field of a format. -/
def fmtMod (f : DFmt) : Nat := if f = .declets then 999 else 9

/-- R212: the residue of the sum, difference, product or quotient `v` is the one predicted from the operands'. -/
def opPasses (m : Nat) (op : DOp) (a b v : Int) : Bool :=
  let ra := residue m a
  let rb := residue m b
  let rv := residue m v
  match op with
  | .add => decide ((ra + rb) % m = rv)
  | .sub => decide ((ra + (m - rb)) % m = rv)
  | .mul => decide (ra * rb % m = rv)
  | .div => decide ((rv * rb + residue m (a.tmod b)) % m = ra)
  | .cmp => true

/-- R212: the residue of the shift `v` of `a`: a right shift's includes the digits dropped and the rounding carry. -/
def shiftPasses (m : Nat) (a : Int) (s : Int) (rnd : Nat) (v : Int) : Bool :=
  if 0 ≤ s then decide (residue m a * 10 ^ s.toNat % m = residue m v)
  else
    let k := (-s).toNat
    let dropped := a.natAbs % 10 ^ k
    let carry := if 10 ≤ a.natAbs / 10 ^ (k - 1) % 10 + rnd then 1 else 0
    decide ((residue m v.natAbs * 10 ^ k + dropped) % m = (residue m a.natAbs + carry * 10 ^ k) % m)

/-- R212: the residue of a converted result, its sign and digits before any truncation, is the value's. -/
def convPasses (m : Nat) (v : Int) : Bool := decide (residue m (signed (signOf v) v.natAbs) = residue m v)

/-- R212: the residue of the value `v` after unit `k` of a long product or quotient whose value before was `cur`. -/
def unitPasses (op : DOp) (n k : Nat) (a b cur v : Nat) : Bool :=
  if op = .mul then
    decide ((residue 9 cur + residue 9 (b / 10 ^ k % 10 : Nat) * residue 9 a * 10 ^ k) % 9 = residue 9 v)
  else
    let d := a / 10 ^ (n - k - 1)
    let q := d / b % 10
    decide ((residue 9 q * residue 9 b + residue 9 (d % b : Nat)) % 9
        = residue 9 (d / 10 % b * 10 + d % 10 : Nat)) &&
      decide ((residue 9 cur * 10 + q) % 9 = residue 9 v)

/-- R209: digits shifted by `s` and rounded; the exact result. -/
def shiftRound (v : Int) (s : Int) (rnd : Nat) : Int :=
  if 0 ≤ s then v * 10 ^ s.toNat
  else
    let k := (-s).toNat
    let m := v.natAbs / 10 ^ k
    let d := v.natAbs / 10 ^ (k - 1) % 10
    let r := if 10 ≤ d + rnd then m + 1 else m
    if v < 0 then - (r : Int) else r

end Sys2Proof.Machine
end

