-- ==== Sys2Proof/Machine/Pointer.lean ====
section
/-! DEFINITION. Pointer slots: the write barrier (R181 to R184), the read barrier and healing (R185 to
R190), allocation (R174, R177), and the list and pointer instructions. -/

namespace Sys2Proof.Machine

/-- R181, R182: the card byte and bit that a store of `w` at slot `a` marks, if any; `gen` is the
container generation. DESIGN CHOICE (log entry 141): the slot address tested and indexed is the physical one, so that the
own-cell and the window address of a slot have one card. -/
def cardOf (s : State) (c a gen : Nat) (w : TWord) : Option (Nat × Nat) :=
  match cellOf c with
  | none => none
  | some n =>
    let base := physOf (some n) (fld (heapWord s n 1) 39 0)
    let limit := physOf (some n) (fld (heapWord s n 2) 39 0)
    let p := physOf (some n) a
    if bit (heapWord s n 0) 0 && isPtr w && genOf w < gen && base ≤ p && p < limit then
      let i := (p - base) / 512
      some (physOf (some n) (fld (heapWord s n 3) 39 0 + i / 8), 7 - i % 8)
    else none

/-- R181: the container generation of an access. -/
def containerGen (src : Option TWord) : Nat := match src with | some w => genOf w | none => 7

/-- R182: privilege and key of a card mark. -/
def cardWho (s : State) (c : Nat) : Who :=
  ⟨cellOf c, 1, match cellOf c with | some n => fld (heapWord s n 0) 15 12 | none => 0⟩

/-- R183: the protection checks of the card byte. -/
def cardCheck (s : State) (c : Nat) (k : Option (Nat × Nat)) : Except Stop Unit :=
  match k with
  | none => .ok ()
  | some (a, _) =>
    match byteFail s (cardWho s c) .write a with
    | some (code, sl) => .error (.exc { Exc.mk3 code 0x42 (a / 256 % 2 ^ 32) with sealHit := sl })
    | none => .ok ()

/-- R374 step 3 for a pointer access. -/
def aligned (info a : Nat) : Except Stop Unit :=
  if a % 8 = 0 then .ok () else raise 4 info (a % 2 ^ 32)

/-- R186: whether a forwarded load heals its slot. -/
def heals (s : State) (c a : Nat) (src : Option TWord) (w w2 : TWord) : Bool :=
  (match cellOf c with | some n => bit (heapWord s n 0) 2 | none => false) &&
  isImm w && !(match src with | some b => isImm b | none => false) &&
  !(w2.tag = 0xF4 && decide (seeWord s c (fld w.pay 39 0) ≠ w2)) &&
  (rangeFail s (whoOf s c) .write a 8).isNone && decide (seeWord s c a = w)

/-- The address lies in the device control space. -/
def isCtl (a : Nat) : Bool := 0xFF00000000 ≤ a

/-- The word of a slot; a register of the control space reads as RAW. -/
def slotWord (s : State) (c a : Nat) : TWord :=
  if isCtl a then ⟨0, BitVec.ofNat 64 (beNat (ctlLoad s a 8))⟩ else wholeWord s c a

/-- A word is stored in a slot. -/
def slotWrite (s : State) (c a : Nat) (w : TWord) : State :=
  if isCtl a then ctlStore s a (wordBytes w.pay) w.tag else wholeWrite s c ⟨a, wordBytes w.pay, w.tag, false⟩

/-- R186: the heal of the slot at `a`, which holds `w`, and the card it marks: at once, or for DRAM at the acknowledgement
of a posted write, if the slot still holds `w` then. -/
def healSlot (s : State) (c a : Nat) (w w2 : TWord) (k : Option (Nat × Nat)) : State :=
  if isDram s a then pushFar s c ⟨.heal w k ⟨a, wordBytes w2.pay, w2.tag, false⟩, 0, 1⟩
  else cardMark (slotWrite s c a w2) c k

/-- R185 to R190: LDP on the slot at `a`, whose address came from `src`. -/
def ldpBody (c : Nat) (rd : Reg) (a : Nat) (src : Option TWord) (s : State) : Except Stop Done := do
  aligned 1 a
  checkBytes s c .read 1 a 8
  needFar s c [(a, 8)]
  let w := slotWord s c a
  if tagClass w ≠ 8 then
    wordBarrier s c w false
    .ok (Done.of (wrG s c rd w) 5)
  else
    let a2 := fld w.pay 39 0
    checkBytes s c .read 1 a2 8
    needFar s c [(a, 8), (a2, 8)]
    let w2 := slotWord s c a2
    if tagClass w2 = 8 then raise 0x14 0 0
    else
      wordBarrier s c w2 false
      let s1 := wrG s c rd w2
      let k := cardOf s c a (containerGen src) w2
      let s1 := if heals s c a src w w2 && (cardCheck s c k).isOk then healSlot s1 c a w w2 k else s1
      .ok (Done.of s1 12)

/-- R181, R183: STP of `w` to the slot at `a`. -/
def stpBody (c : Nat) (w : TWord) (a : Nat) (src : Option TWord) (s : State) : Except Stop Done := do
  aligned 1 a
  checkBytes s c .write 1 a 8
  wordBarrier s c w false
  let k := cardOf s c a (containerGen src) w
  cardCheck s c k
  .ok (Done.of (cardMark (slotWrite s c a w) c k) 6)

def rmLen (base : Nat) (m : Mem) : Nat := base + memBytes m

/-- LDP and STP; `regs` hold the data. -/
def ldpRun (i : Instr) (c : Nat) (m : RMem) (regs : List Nat) : Run :=
  ⟨c, some false, rmLen 2 (.reg m), none, Tm.core (memSrcs (.reg m)) regs, i.wf⟩

def execLdp (c : Nat) (rd : Reg) (m : RMem) (s : State) : Out :=
  runCore s (ldpRun (.ldp c rd m) c m []) fun s => do
    let e ← eaReg s c 1 false m
    ldpBody c rd e.a e.src s

def execStp (c : Nat) (rd : Reg) (m : RMem) (s : State) : Out :=
  runCore s (ldpRun (.stp c rd m) c m [rd.val]) fun s => do
    let w ← rdG s c rd
    let e ← eaReg s c 1 true m
    stpBody c w e.a e.src s

/-- A register-register whole-core instruction of 3 bytes; no address depends on the registers `data`. -/
def rrRun (i : Instr) (c : Nat) (srcs : List Nat) (data : List Nat := []) : Run :=
  ⟨c, some false, 3, none, Tm.core srcs data, i.wf⟩

/-- R175: HEAD and TAIL, the word at offset `o` of the cell. -/
def headBody (c : Nat) (rd ra : Reg) (o : Nat) (s : State) : Except Stop Done := do
  let w ← rdG s c ra
  if w = nil then .ok (Done.of (wrG s c rd nil) 5)
  else if isPoison w then poisonUse w
  else if tagClass w ≠ 4 then tagMismatch 1 w
  else
    let a ← inSpace 1 (fld w.pay 39 0 + o : Nat)
    baseBarrier s c (some w)
    ldpBody c rd a (some w) s

def execHead (c : Nat) (rd ra : Reg) (s : State) : Out :=
  runCore s (rrRun (.head c rd ra) c [ra.val]) (headBody c rd ra 0)
def execTail (c : Nat) (rd ra : Reg) (s : State) : Out :=
  runCore s (rrRun (.tail c rd ra) c [ra.val]) (headBody c rd ra 8)

/-- R176: SETH and SETT. -/
def sethBody (c : Nat) (ra rb : Reg) (o : Nat) (s : State) : Except Stop Done := do
  let w ← rdG s c ra
  let v ← rdG s c rb
  if isPoison w then poisonUse w
  else if tagClass w ≠ 4 || isImm w then tagMismatch 1 w
  else
    let a ← inSpace 1 (fld w.pay 39 0 + o : Nat)
    baseBarrier s c (some w)
    stpBody c v a (some w) s

def execSeth (c : Nat) (ra rb : Reg) (s : State) : Out :=
  runCore s (rrRun (.seth c ra rb) c [ra.val] [rb.val]) (sethBody c ra rb 0)
def execSett (c : Nat) (ra rb : Reg) (s : State) : Out :=
  runCore s (rrRun (.sett c ra rb) c [ra.val] [rb.val]) (sethBody c ra rb 8)

-- allocation (R168, R174, R177)

/-- The words of the heap-control block that hold the window of a core. -/
def atopIx (c : Nat) : Nat := 8 + 2 * (c % 4)

/-- R177: the address of `n` new bytes, after both allocation checks. -/
def allocCheck (s : State) (c n : Nat) : Except Stop Nat :=
  match cellOf c with
  | none => raise 6 0x41 0
  | some cell =>
    let top := fld (heapWord s cell (atopIx c)) 39 0
    if fld (heapWord s cell (atopIx c + 1)) 39 0 < top + n then raise 6 0x41 (top / 256)
    else
      match (List.range n).find? fun i => allocFail s (whoOf s c) (top + i) with
      | some i => .error (.exc { Exc.mk3 6 0x47 ((top + i) / 256) with sealHit := isDram s (top + i) && sealedAt s.prot (top + i) })
      | none => .ok top

/-- R177: the window advances and the object's words are written. -/
def allocate (s : State) (c n top : Nat) (ws : List PWrite) : State :=
  match cellOf c with
  | none => s
  | some cell => setHeapWord (wholeWrites s c ws) cell (atopIx c) (BitVec.ofNat 64 (top + n))

def wordWrite (a : Nat) (w : TWord) : PWrite := ⟨a, wordBytes w.pay, w.tag, false⟩

/-- R174. -/
def consBody (c : Nat) (rd ra rb : Reg) (s : State) : Except Stop Done := do
  let h ← rdG s c ra
  let t ← rdG s c rb
  wordBarrier s c h false
  wordBarrier s c t false
  let top ← allocCheck s c 16
  let s := allocate s c 16 top [wordWrite top h, wordWrite (top + 8) t]
  .ok (Done.of (wrG s c rd (ptr 4 false top)) 8)

def execCons (c : Nat) (rd ra rb : Reg) (s : State) : Out :=
  runCore s (rrRun (.cons c rd ra rb) c [ra.val, rb.val]) (consBody c rd ra rb)

end Sys2Proof.Machine
end

