-- ==== Sys2Proof/Machine/Units.lean ====
section
/-! DEFINITION. Units of operation (R214 to R219): the loop over units, with the events taken at a unit
boundary, the budget counter and the exceptions of a later unit. -/

namespace Sys2Proof.Machine

/-- What one unit leaves: the state of the boundary after it, its cycles, and whether the instruction is
complete. -/
structure UnitOut where
  s : State
  cyc : Nat
  fin : Bool
  deriving DecidableEq, Repr

/-- The instruction stops at a unit boundary. -/
def unitStop (s : State) (cnt : Nat) : Except Stop Done := .ok { Done.of s cnt with atUnit := true }

/-- The execution waits at a unit boundary for a pre-read, or does not. -/
def setUnit (s : State) (c : Nat) (u : Option UnitWait) : State :=
  setCore s c { getCore s c with unit := u }

/-- R276: the execution at this address that waited for a pre-read. -/
def unitsDone (s : State) (c : Nat) : Option UnitWait :=
  match (getCore s c).unit with
  | some u => if u.ia = (curBank s c).ia && (curBank s c).uip then some u else none
  | none => none

/-- What an execution fixes when it begins: it goes on after a pre-read as it began. -/
def unitBegin (s : State) (c : Nat) (desc : Bool) (hdr : List Byte) : UnitWait :=
  (unitsDone s c).getD ⟨(curBank s c).ia, 0, desc, hdr⟩

/-- R332: cycles of the abort window that a unit instruction which starts in cycle `st` may use, if it runs. -/
def winLeft (s : State) (c st : Nat) : Option Nat :=
  let k := getCore s c
  match k.running with
  | some n => if (getCtx s n).base.ovr then some ((getCtx s n).win - (st - k.freeAt / cyc)) else none
  | none => none

/-- Units from number `k` on, the first of this command being `k0`: an event is taken when `fuel` units have
run, or at the boundary after the unit in which one came, `left` cycles after the start; a later unit's exception
leaves the boundary's state with PS.UIP 1 (R219); a later unit's far words make the execution wait for their
pre-read, and it goes on from there. A later unit that the abort window's end would cut is left to run by itself. -/
def unitLoop (c : Nat) (left win : Option Nat) (u : UnitWait) (one : Nat → State → Except Stop UnitOut) (k0 : Nat) :
    Nat → Nat → Nat → State → Except Stop Done
  | 0, _, cum, s => unitStop (setUnit s c none) cum
  | fuel + 1, k, cum, s =>
    match one k s with
    | .ok o =>
      let s1 := clearFrb o.s c
      if k ≠ k0 && (match win with | some w => decide (w < cum + o.cyc) | none => false) then
        unitStop (setUnit s c none) cum
      else if o.fin then .ok (Done.of (setUnit s1 c none) (cum + o.cyc))
      else if (match left with | some b => decide (b ≤ cum + o.cyc) | none => false) then
        unitStop (setUnit s1 c none) (cum + o.cyc)
      else unitLoop c left win u one k0 fuel (k + 1) (cum + o.cyc) s1
    | .error (.exc e) =>
      if k = k0 then .error (.exc e)
      else .error (.part (setBank s c ((curBank s c).setUip true)) cum e)
    | .error (.far ws) => if k = k0 then .error (.far ws)
      else unitStop (setUnit s c (some { u with k := k })) cum
    | .error x => .error x

/-- The run `q` of a unit-of-operation instruction whose event, if any, comes after `units` units. -/
def unitRun (q : Run) (units : Nat) (u : UnitWait) (one : Nat → State → Except Stop UnitOut) (s : State) :
    Except Stop Done :=
  let st := startOf s q
  unitLoop q.c (eventAfter s q.c st) (winLeft s q.c st) u one u.k (max 1 units) u.k 0 s

end Sys2Proof.Machine
end

