-- ==== Sys2Proof/Machine/DecimalOps.lean ====
section
/-! DEFINITION. The decimal instructions (R199 to R211), with their counts (R289, R292). -/

namespace Sys2Proof.Machine

/-- A decimal memory operand: its number, format, length, specifier and use. -/
structure Opd where
  info : Nat
  fmt : DFmt
  len : Nat
  m : Mem
  k : Kind

def kindWrites : Kind → Bool
  | .write | .both => true
  | _ => false

def kindReads : Kind → Bool
  | .write => false
  | _ => true

/-- The effective address of an operand. -/
def opdEa (s : State) (c : Nat) (o : Opd) : Except Stop Ea := eaOf s c o.info o.len (kindWrites o.k) o.m

/-- R276: the far words that an operand needs as far as is known: its indirect word, or its own words when it is read
and passes its checks. -/
def opdFar (s : State) (c : Nat) (o : Opd) : List Nat :=
  match opdEa s c o with
  | .error (.far ws) => ws
  | .error _ => []
  | .ok e =>
    if kindReads o.k && (checkBytes s c o.k o.info e.a o.len).isOk then farMiss s c [(e.a, o.len)] else []

/-- R374: address and protection checks, operand by operand; `far` are the far words known to be needed. -/
def opdEasWith (s : State) (c : Nat) (far : List Nat) : List Opd → Except Stop (List Ea)
  | [] => .ok []
  | o :: r => do
    let e ← withFar (opdEa s c o) far
    checkBytes s c o.k o.info e.a o.len
    let es ← opdEasWith s c far r
    .ok (e :: es)

/-- The same for the operands of an instruction. -/
def opdEas (s : State) (c : Nat) (os : List Opd) : Except Stop (List Ea) := opdEasWith s c (os.flatMap (opdFar s c)) os

/-- R202 step 2: R93 on every word that the operands touch. -/
def opdPoison (s : State) (c : Nat) : List (Opd × Ea) → Except Stop Unit
  | [] => .ok ()
  | (o, e) :: r => do
    poisonFree s c e.a o.len
    opdPoison s c r

/-- R202 steps 1 and 2, with the far pre-read of the source operands (R276). -/
def opdCheck (s : State) (c : Nat) (os : List Opd) : Except Stop (List Ea) := do
  let es ← opdEas s c os
  let ps := os.zip es
  needFar s c ((ps.filter fun p => kindReads p.1.k).map fun p => (p.2.a, p.1.len))
  opdPoison s c ps
  .ok es

/-- R197: the value of a source operand. -/
def opdVal (s : State) (c : Nat) (o : Opd) (e : Ea) : Except Stop Int := do
  let bs ← wholeBytes s c e.a o.len
  match fmtVal o.fmt bs with
  | .ok v => .ok v
  | .error off => raise 0x0B o.info off

/-- R204: CC of a result. -/
def signCc (v : Int) : Nat := if v = 0 then 0 else if v < 0 then 1 else 2

/-- R205: the overflow rule for a result of `digits` digits: the sign and digits to write, CC and flag. -/
def decFit (s : State) (c digits : Nat) (v : Int) : Except Stop (Nat × Nat × State) :=
  if 10 ^ digits ≤ v.natAbs then
    if teBit s c 3 then raise 0x0C 1 0
    else .ok ((fitDigits digits v).1, (fitDigits digits v).2, setFl (setCc s c 3) c 2)
  else .ok ((fitDigits digits v).1, (fitDigits digits v).2, setCc s c (signCc v))

/-- A result field in memory. -/
def decWrite (c a : Nat) (f : DFmt) (l sg m : Nat) (s : State) : State :=
  wholeWrite s c ⟨a, fmtBytes f l sg m, 0, false⟩

/-- R205: a result reaches its memory field. -/
def decResult (s : State) (c : Nat) (f : DFmt) (l a : Nat) (v : Int) : Except Stop State := do
  let r ← decFit s c (fmtDigits f l) v
  .ok (decWrite c a f l r.1 r.2.1 r.2.2)

-- accumulators

/-- R199: the value of an accumulator. -/
def accVal (x : Acc) : Int := signed (fld x 213 210) (decletsVal 21 (fld x 209 0))

/-- An accumulator with a sign and digits. -/
def accOf (sg m : Nat) : Acc := BitVec.ofNat 214 (sg * 2 ^ 210 + decletsOf 21 m)

def wrA (s : State) (c : Nat) (k : Fin 4) (x : Acc) : State :=
  let b := curBank s c
  setBank s c { b with a := b.a.set k x }

def rdA (s : State) (c : Nat) (k : Fin 4) : Int := accVal (curBank s c).a[k]

/-- R205: a result reaches an accumulator. -/
def accResult (s : State) (c : Nat) (k : Fin 4) (v : Int) : Except Stop State := do
  let r ← decFit s c 63 v
  .ok (wrA r.2.2 c k (accOf r.1 r.2.1))

-- encodings

/-- LONG shifts every byte of the instruction by one. -/
def offIn (m : Mem) (o : Nat) : Nat := if m.isLong then o + 1 else o

def orUnd : List (Option Nat) → Option Nat
  | [] => none
  | some o :: _ => some o
  | none :: r => orUnd r

def badAt (b : Bool) (o : Nat) : Option Nat := if b then some o else none

/-- Reserved specifiers of operands whose first starts at offset `o`. -/
def specUnd : Nat → List Mem → Option Nat
  | _, [] => none
  | o, m :: r => match memUnd o m with | some x => some x | none => specUnd (o + memBytes m) r

/-- R202, R138: a length byte outside its limits. -/
def lenBad (lo hi l : Nat) : Bool := l < lo || hi < l

/-- The length bytes of an MM or SS2 form. -/
def mmUnd (b1 b2 : Bool) (m1 m2 : Mem) : Option Nat :=
  orUnd [badAt b1 (offIn m1 1), badAt b2 (offIn m1 2), specUnd (offIn m1 3) [m1, m2]]

/-- R210: the long forms. -/
def isLongForm (op : DOp) : DForm → Bool
  | .mmm l1 l2 l3 .. =>
    (op = .mul && 17 ≤ l1 && l2 + l3 ≤ l1) || (op = .div && 17 ≤ l1 && l2 ≤ l1)
  | _ => false

/-- R210: an L1 of 17 or more that is no long form, at the byte that decides it. -/
def mmmUnd (op : DOp) (l1 l2 l3 : Nat) : Option Nat :=
  let t := (l2 - 1) / 4 * 4 + 1
  if l1 < 17 then none
  else if op = .mul then
    if l1 < t + 1 then some 1 else if l1 < l2 + l3 then some 2 else none
  else if op = .div then
    if l1 < t then some 1 else if l1 < l2 then some 2 else none
  else none

def decUnd (op : DOp) : DForm → Option Nat
  | .mm l1 l2 m1 m2 =>
    match op with
    | .mul => mmUnd (lenBad 1 16 l1) (lenBad 1 16 l2) m1 m2
    | .div => mmUnd (lenBad 2 16 l1) (lenBad 1 (l1 - 1) l2) m1 m2
    | _ => mmUnd (lenBad 1 32 l1) (lenBad 1 32 l2) m1 m2
  | .mmm l1 l2 l3 m1 m2 m3 => orUnd [mmmUnd op l1 l2 l3, specUnd 3 [m1, m2, m3]]
  | .aa a b => badAt (op = .div && a = b) 1

def decMode : DForm → Bool
  | .mm _ _ m _ => m.storage
  | .mmm _ _ _ m _ _ => m.storage
  | .aa .. => false

def decLen2 : DForm → Nat
  | .mm _ _ m1 m2 => 3 + memBytes m1 + memBytes m2
  | .mmm _ _ _ m1 m2 m3 => 3 + memBytes m1 + memBytes m2 + memBytes m3
  | .aa .. => 2

def decSrcs : DForm → List Nat
  | .mm _ _ m1 m2 => memSrcs m1 ++ memSrcs m2
  | .mmm _ _ _ m1 m2 m3 => memSrcs m1 ++ memSrcs m2 ++ memSrcs m3
  | .aa .. => []

def decRunOf (i : Instr) (c : Nat) (op : DOp) (f : DForm) : Run :=
  ⟨c, some (decMode f), decLen2 f, decUnd op f, Tm.core (decSrcs f), i.wf⟩

-- counts (R289)

def rWords (l : Nat) : Nat := cdiv l 8 + 1
def qOf (f : DFmt) (l : Nat) : Nat := cdiv (fmtDigits f l) 18
def qP (l : Nat) : Nat := qOf .packed l

/-- R292: storage forms count 6 more, and each specifier its own. -/
def stoCost (ms : List Mem) : Nat :=
  (if ms.any Mem.storage then 6 else 0) + (ms.map memCost).sum

def decCount (op : DOp) : DForm → Nat
  | .mm l1 l2 m1 m2 =>
    stoCost [m1, m2] + (match op with
      | .add | .sub => 8 + 2 * rWords l1 + rWords l2 + 2 * max (qP l1) (qP l2)
      | .cmp => 8 + rWords l1 + rWords l2 + 2 * max (qP l1) (qP l2)
      | .mul => 10 + 2 * rWords l1 + rWords l2 + 6 * qP l1 * qP l2
      | .div => 14 + 2 * rWords l1 + rWords l2 + 6 * (2 * (l1 - l2) - 1))
  | .mmm l1 l2 l3 m1 m2 m3 =>
    stoCost [m1, m2, m3] + (match op with
      | .mul => 10 + rWords l1 + rWords l2 + rWords l3 + 6 * qP l2 * qP l3
      | .div => 14 + rWords l1 + rWords l2 + rWords l3 + 6 * (2 * l1 - 1)
      | _ => 8 + rWords l1 + rWords l2 + rWords l3 + 2 * max (qP l1) (max (qP l2) (qP l3)))
  | .aa .. => match op with | .add | .sub => 12 | .cmp => 10 | .mul => 108 | .div => 390

-- meanings

def decOp (op : DOp) (a b : Int) : Int :=
  match op with
  | .add => a + b
  | .sub => a - b
  | .mul => a * b
  | .div => a.tdiv b
  | .cmp => 0

/-- R206: a zero divisor, operand `info`. -/
def divZero (s : State) (c info : Nat) (es : List Ea) (cnt : Nat) : Except Stop Done :=
  if teBit s c 4 then raise 0x0D info 0
  else .ok (Done.of (applySides (setFl (setCc s c 3) c 3) c es) cnt)

/-- R207: MM forms. -/
def decMM (c : Nat) (op : DOp) (l1 l2 : Nat) (m1 m2 : Mem) (cnt : Nat) (s : State) : Except Stop Done := do
  let o1 : Opd := ⟨1, .packed, l1, m1, if op = .cmp then .read else .both⟩
  let o2 : Opd := ⟨2, .packed, l2, m2, .read⟩
  let es ← opdCheck s c [o1, o2]
  let e1 := es.getD 0 ⟨0, none, none⟩
  let e2 := es.getD 1 ⟨0, none, none⟩
  let a ← opdVal s c o1 e1
  let b ← opdVal s c o2 e2
  match op with
  | .cmp => .ok (Done.of (applySides (setCc s c (cmpCc a b)) c es) cnt)
  | .div =>
    if b = 0 then divZero s c 2 es cnt
    else
      residueStep 9 (opPasses 9 .div a b (a.tdiv b))
      -- R208: quotient first, remainder last
      let s1 ← decResult s c .packed (l1 - l2) e1.a (a.tdiv b)
      let r := fitDigits (2 * l2 - 1) (a.tmod b)
      .ok (Done.of (applySides (decWrite c (e1.a + (l1 - l2)) .packed l2 r.1 r.2 s1) c es) cnt)
  | _ =>
    residueStep 9 (opPasses 9 op a b (decOp op a b))
    let s1 ← decResult s c .packed l1 e1.a (decOp op a b)
    .ok (Done.of (applySides s1 c es) cnt)

/-- R207: MMM forms other than the long ones. -/
def decMMM (c : Nat) (op : DOp) (l1 l2 l3 : Nat) (m1 m2 m3 : Mem) (cnt : Nat) (s : State) :
    Except Stop Done := do
  let o1 : Opd := ⟨1, .packed, l1, m1, .write⟩
  let o2 : Opd := ⟨2, .packed, l2, m2, .read⟩
  let o3 : Opd := ⟨3, .packed, l3, m3, .read⟩
  let es ← opdCheck s c [o1, o2, o3]
  let e1 := es.getD 0 ⟨0, none, none⟩
  let a ← opdVal s c o2 (es.getD 1 ⟨0, none, none⟩)
  let b ← opdVal s c o3 (es.getD 2 ⟨0, none, none⟩)
  if op = .div ∧ b = 0 then divZero s c 3 es cnt
  else
    residueStep 9 (opPasses 9 op a b (decOp op a b))
    let s1 ← decResult s c .packed l1 e1.a (decOp op a b)
    .ok (Done.of (applySides s1 c es) cnt)

/-- R207: AA forms. -/
def decAA (c : Nat) (op : DOp) (ka kb : Fin 4) (cnt : Nat) (s : State) : Except Stop Done := do
  let a := rdA s c ka
  let b := rdA s c kb
  match op with
  | .cmp => .ok (Done.of (setCc s c (cmpCc a b)) cnt)
  | .div =>
    if b = 0 then divZero s c 2 [] cnt
    else
      residueStep 999 (opPasses 999 .div a b (a.tdiv b))
      let s1 ← accResult s c ka (a.tdiv b)
      let r := fitDigits 63 (a.tmod b)
      .ok (Done.of (wrA s1 c kb (accOf r.1 r.2)) cnt)
  | _ =>
    residueStep 999 (opPasses 999 op a b (decOp op a b))
    let s1 ← accResult s c ka (decOp op a b)
    .ok (Done.of s1 cnt)

/-- Every form that runs whole. -/
def decBody (c : Nat) (op : DOp) (f : DForm) (s : State) : Except Stop Done :=
  match f with
  | .mm l1 l2 m1 m2 => decMM c op l1 l2 m1 m2 (decCount op f) s
  | .mmm l1 l2 l3 m1 m2 m3 => decMMM c op l1 l2 l3 m1 m2 m3 (decCount op f) s
  | .aa a b => decAA c op a b (decCount op f) s

-- long forms (R210, R211, R217, R218, R229)

/-- Two byte ranges share a byte. -/
def overlap (a la b lb : Nat) : Bool := a < b + lb && b < a + la

/-- The value after unit `k` of a long form: of a product from the value `cur` of the units before, of
a quotient from its digits so far. DESIGN CHOICE (log entry 143): when a handler has altered an operand of an interrupted
division, so that the digits that stand fit it no more, the digits that follow are those of the altered operands' own
quotient. -/
def longNext (op : DOp) (n k : Nat) (a b cur : Nat) : Nat :=
  if op = .mul then cur + b / 10 ^ k % 10 * a * 10 ^ k
  else cur * 10 + a / 10 ^ (n - k - 1) / b % 10

/-- The byte ranges that operands known to be readable are read from. -/
def farRanges (s : State) (c : Nat) (os : List Opd) : List (Nat × Nat) :=
  os.filterMap fun o =>
    match opdEa s c o with
    | .ok e => if kindReads o.k && (checkBytes s c o.k o.info e.a o.len).isOk then some (e.a, o.len) else none
    | .error _ => none

/-- R216: CT and PS.SIG when a long form completes. -/
def longEnd (s : State) (c : Nat) : State := setBank s c ({ curBank s c with ct := 0 }.setSig false)

/-- One unit of a long form (R211; log entry 98 for its order of checks); `j` counts the units of this execution. -/
def longUnit (c : Nat) (op : DOp) (l1 l2 l3 : Nat) (m1 m2 m3 : Mem) (j : Nat) (s : State) :
    Except Stop UnitOut := do
  let o2 : Opd := ⟨2, .packed, l2, m2, .read⟩
  let o3 : Opd := ⟨3, .packed, l3, m3, .read⟩
  let n := if op = .mul then 2 * l3 - 1 else 2 * l2 - 1
  -- R363: an instruction of several units reads back what it writes
  let o1 : Opd := ⟨1, .packed, l1, m1, if n = 1 then .write else .both⟩
  let resumed := j ≠ 0 || (curBank s c).uip
  let k := if resumed then (curBank s c).ct.toNat else 0
  if resumed && n ≤ k then raise 0x0B 5 0
  else
    -- R276: the round of a later unit brings the first operand too
    let os := if k = 0 then [o2, o3] else [o1, o2, o3]
    let far := ([o1, o2, o3].filter fun o => !(opdEa s c o).isOk || o.info ≠ 1 || k ≠ 0).flatMap (opdFar s c)
    let e1 ← withFar (opdEa s c o1) far
    let e2 ← withFar (opdEa s c o2) far
    let ph := physOf (cellOf c)
    let meets := fun (e : Ea) l => overlap (ph e1.a) l1 (ph e.a) l
    if meets e2 l2 || (match opdEa s c o3 with | .ok e3 => meets e3 l3 | .error _ => false) then raise 0x0B 4 0
    else
      let _ ← opdEasWith s c far [o2, o3]
      needFar s c (farRanges s c os)
      let es ← opdCheck s c [o2, o3]
      let e3 := es.getD 1 ⟨0, none, none⟩
      let a ← opdVal s c o2 e2
      let b ← opdVal s c o3 e3
      let start := if j ≠ 0 then 0
        else if resumed then
          (if op = .mul then 4 + rWords l1 else 12 + rWords l1 + 8 * qP l2 * qP l3) + stoCost [m1, m2, m3]
        else 12 + rWords l2 + rWords l3 + stoCost [m1, m2, m3]
      let unit := (if op = .mul then 6 + 2 * qP l2 else 8 + 2 * qP l3) + rWords l1
      if op = .div ∧ b = 0 then
        if teBit s c 4 then raise 0x0D 3 0
        else
          let s1 := setFl (setCc s c 3) c 3
          .ok ⟨applySides (longEnd s1 c) c (e1 :: es), start + 4, true⟩
      else
        checkBytes s c o1.k 1 e1.a l1
        (if k = 0 then .ok () else needFar s c [(e1.a, l1), (e2.a, l2), (e3.a, l3)])
        poisonFree s c e1.a l1
        let cur ← (if k = 0 then .ok 0 else opdVal s c ⟨1, .packed, l1, m1, .read⟩ e1)
        let x := longNext op n k a.natAbs b.natAbs cur.natAbs
        residueStep 9 (unitPasses op n k a.natAbs b.natAbs cur.natAbs x)
        let v := x % 10 ^ (2 * l1 - 1)
        if k + 1 = n then
          let neg := decide ((a < 0) ≠ (b < 0)) && v ≠ 0
          let s1 := decWrite c e1.a .packed l1 (if neg then 13 else 12) v s
          let s1 := setCc s1 c (if v = 0 then 0 else if neg then 1 else 2)
          .ok ⟨applySides (longEnd s1 c) c (e1 :: es), start + unit + 4, true⟩
        else
          let s1 := decWrite c e1.a .packed l1 12 v s
          .ok ⟨setBank s1 c { curBank s1 c with ct := BitVec.ofNat 64 (k + 1) }, start + unit, false⟩

def longBody (c : Nat) (op : DOp) (f : DForm) (units : Nat) (s : State) : Except Stop Done :=
  match f with
  | .mmm l1 l2 l3 m1 m2 m3 => unitRun (decRunOf (if op = .mul then .dmul c f units else .ddiv c f units) c op f) units (unitBegin s c false []) (longUnit c op l1 l2 l3 m1 m2 m3) s
  | _ => decBody c op f s

def execDadd (c : Nat) (f : DForm) (s : State) : Out :=
  runCore s (decRunOf (.dadd c f) c .add f) (decBody c .add f)
def execDsub (c : Nat) (f : DForm) (s : State) : Out :=
  runCore s (decRunOf (.dsub c f) c .sub f) (decBody c .sub f)
def execDcmp (c : Nat) (f : DForm) (s : State) : Out :=
  runCore s (decRunOf (.dcmp c f) c .cmp f) (decBody c .cmp f)
def execDmul (c : Nat) (f : DForm) (units : Nat) (s : State) : Out :=
  runCore s (decRunOf (.dmul c f units) c .mul f)
    (if isLongForm .mul f then longBody c .mul f units else decBody c .mul f)
def execDdiv (c : Nat) (f : DForm) (units : Nat) (s : State) : Out :=
  runCore s (decRunOf (.ddiv c f units) c .div f)
    (if isLongForm .div f then longBody c .div f units else decBody c .div f)

-- accumulators and memory

def fmtOf (f : BitVec 2) : DFmt := if f = 0 then .packed else if f = 1 then .zoned else .declets

/-- R137, R138: the AM bytes. -/
def amUnd (f : BitVec 2) (l : Nat) (m : Mem) : Option Nat :=
  orUnd [badAt (f = 3 || (f = 0 && 32 < l) || (f = 2 && 28 < l)) (offIn m 1),
    badAt (f = 2 && (decletCount l).isNone) (offIn m 2), specUnd (offIn m 3) [m]]

def amRun (i : Instr) (c : Nat) (f : BitVec 2) (l : Nat) (m : Mem) : Run :=
  ⟨c, some m.storage, 3 + memBytes m, amUnd f l m, Tm.core (memSrcs m), i.wf⟩

def amCount (f : BitVec 2) (l : Nat) (m : Mem) : Nat := stoCost [m] + 6 + rWords l + 2 * qOf (fmtOf f) l

def ldaBody (c : Nat) (a : Fin 4) (f : BitVec 2) (l : Nat) (m : Mem) (s : State) : Except Stop Done := do
  let o : Opd := ⟨1, fmtOf f, l, m, .read⟩
  let es ← opdCheck s c [o]
  let v ← opdVal s c o (es.getD 0 ⟨0, none, none⟩)
  residueStep 999 (convPasses 999 v)
  let s1 ← accResult s c a v
  .ok (Done.of (applySides s1 c es) (amCount f l m))

def execLda (c : Nat) (a : Fin 4) (f : BitVec 2) (l : Nat) (m : Mem) (s : State) : Out :=
  runCore s (amRun (.lda c a f l m) c f l m) (ldaBody c a f l m)

def staBody (c : Nat) (a : Fin 4) (f : BitVec 2) (l : Nat) (m : Mem) (s : State) : Except Stop Done := do
  let o : Opd := ⟨1, fmtOf f, l, m, .write⟩
  let es ← opdCheck s c [o]
  let v := rdA s c a
  residueStep (fmtMod (fmtOf f)) (convPasses (fmtMod (fmtOf f)) v)
  let s1 ← decResult s c (fmtOf f) l (es.getD 0 ⟨0, none, none⟩).a v
  .ok (Done.of (applySides s1 c es) (amCount f l m))

def execSta (c : Nat) (a : Fin 4) (f : BitVec 2) (l : Nat) (m : Mem) (s : State) : Out :=
  runCore s (amRun (.sta c a f l m) c f l m) (staBody c a f l m)

-- DSRD (R209)

def dsrdUnd (l : Nat) (sh : BitVec 8) (rnd : BitVec 4) (m : Mem) : Option Nat :=
  orUnd [badAt (lenBad 1 32 l) (offIn m 1), badAt (sh.toInt < -62 || 62 < sh.toInt) (offIn m 2),
    badAt (10 ≤ rnd.toNat) (offIn m 3), specUnd (offIn m 4) [m]]

def dsrdBody (c l : Nat) (sh : BitVec 8) (rnd : BitVec 4) (m : Mem) (s : State) : Except Stop Done := do
  let o : Opd := ⟨1, .packed, l, m, .both⟩
  let es ← opdCheck s c [o]
  let e := es.getD 0 ⟨0, none, none⟩
  let v ← opdVal s c o e
  let r := shiftRound v sh.toInt rnd.toNat
  residueStep 9 (shiftPasses 9 v sh.toInt rnd.toNat r)
  let s1 ← decResult s c .packed l e.a r
  .ok (Done.of (applySides s1 c es) (stoCost [m] + 8 + 2 * rWords l + 2 * qP l))

def execDsrd (c : Nat) (l : Nat) (sh : BitVec 8) (rnd : BitVec 4) (m : Mem) (s : State) : Out :=
  runCore s ⟨c, some m.storage, 4 + memBytes m, dsrdUnd l sh rnd m, Tm.core (memSrcs m),
    (Instr.dsrd c l sh rnd m).wf⟩ (dsrdBody c l sh rnd m)

-- conversions

/-- Formats of a conversion: first and second operand. -/
def cvFmts : CvOp → DFmt × DFmt
  | .pack => (.packed, .zoned)
  | .unpk => (.zoned, .packed)
  | .cvpd => (.declets, .packed)
  | .cvdp => (.packed, .declets)

def cvUnd (op : CvOp) (l1 l2 : Nat) (m1 m2 : Mem) : Option Nat :=
  mmUnd (!fmtLenOk (cvFmts op).1 l1) (!fmtLenOk (cvFmts op).2 l2) m1 m2

def cvBody (c : Nat) (op : CvOp) (l1 l2 : Nat) (m1 m2 : Mem) (s : State) : Except Stop Done := do
  let f := cvFmts op
  let o2 : Opd := ⟨2, f.2, l2, m2, .read⟩
  let es ← opdCheck s c [⟨1, f.1, l1, m1, .write⟩, o2]
  let v ← opdVal s c o2 (es.getD 1 ⟨0, none, none⟩)
  residueStep 9 (convPasses 9 v)
  let s1 ← decResult s c f.1 l1 (es.getD 0 ⟨0, none, none⟩).a v
  .ok (Done.of (applySides s1 c es)
    (stoCost [m1, m2] + 8 + rWords l1 + rWords l2 + 2 * max (qOf f.1 l1) (qOf f.2 l2)))

def cvRun (i : Instr) (c : Nat) (op : CvOp) (l1 l2 : Nat) (m1 m2 : Mem) : Run :=
  ⟨c, some m1.storage, 3 + memBytes m1 + memBytes m2, cvUnd op l1 l2 m1 m2,
    Tm.core (memSrcs m1 ++ memSrcs m2), i.wf⟩

def execPack (c l1 l2 : Nat) (m1 m2 : Mem) (s : State) : Out :=
  runCore s (cvRun (.pack c l1 l2 m1 m2) c .pack l1 l2 m1 m2) (cvBody c .pack l1 l2 m1 m2)
def execUnpk (c l1 l2 : Nat) (m1 m2 : Mem) (s : State) : Out :=
  runCore s (cvRun (.unpk c l1 l2 m1 m2) c .unpk l1 l2 m1 m2) (cvBody c .unpk l1 l2 m1 m2)
def execCvpd (c l1 l2 : Nat) (m1 m2 : Mem) (s : State) : Out :=
  runCore s (cvRun (.cvpd c l1 l2 m1 m2) c .cvpd l1 l2 m1 m2) (cvBody c .cvpd l1 l2 m1 m2)
def execCvdp (c l1 l2 : Nat) (m1 m2 : Mem) (s : State) : Out :=
  runCore s (cvRun (.cvdp c l1 l2 m1 m2) c .cvdp l1 l2 m1 m2) (cvBody c .cvdp l1 l2 m1 m2)

end Sys2Proof.Machine
end

