-- ==== Sys2Proof/Machine/FloatOps.lean ====
section
/-! DEFINITION. The binary64 instructions (R248 to R259), with counts (R286, R292) and the surcharges of
emulation (R267). -/

namespace Sys2Proof.Machine

def fStorage : FForm → Bool
  | .rr .. => false
  | _ => true

def fLen : FForm → Nat
  | .rr .. => 3
  | .sr .. => 2
  | .sx _ m => 2 + memBytes (.sto m)

def fUnd : FForm → Option Nat
  | .sx _ m => memUnd 2 (.sto m)
  | _ => none

def fTm (f : FForm) (unit : Fu) (dsts : Reg → List Nat) : Tm :=
  match f with
  | .rr fd a b => tmOf false true unit [32 + a.val, 32 + b.val] (dsts fd)
  | .sr fd a => tmOf true true unit [32 + fd.val, 32 + a.val] (dsts fd)
  | .sx fd m => tmOf true true unit (memSrcs (.sto m)) (dsts fd) [32 + fd.val]

def fCount (rr sr sx : Nat) : FForm → Nat
  | .rr .. => rr
  | .sr .. => sr
  | .sx _ m => sx + memCost (.sto m)

def fRunOf (i : Instr) (c : Nat) (f : FForm) (unit : Fu) (dsts : Reg → List Nat) : Run :=
  ⟨c, some (fStorage f), fLen f, fUnd f, fTm f unit dsts, i.wf⟩

/-- The operands of a binary64 instruction. -/
structure FIn where
  fd : Reg
  a : Word
  b : Word
  sides : List Ea

/-- A memory binary64 operand of the SX form (R150). DEDUCED (log entry 140): R150 gives no tags for it; the model asks FLT or
RAW of the words it touches, as R92 does for LDF. -/
def memFlt (s : State) (c info a : Nat) : Except Stop Word := do
  checkBytes s c .read info a 8
  needFar s c [(a, 8)]
  fltAt s c info a

def fIn (s : State) (c : Nat) (f : FForm) : Except Stop FIn := do
  match f with
  | .rr fd fa fb =>
    let a ← rdF s c fa
    let b ← rdF s c fb
    .ok ⟨fd, a, b, []⟩
  | .sr fd fa =>
    let a ← rdF s c fd
    let b ← rdF s c fa
    .ok ⟨fd, a, b, []⟩
  | .sx fd m =>
    let a ← rdF s c fd
    let e ← eaSto s c 2 8 false m
    let b ← memFlt s c 2 e.a
    .ok ⟨fd, a, b, [e]⟩

/-- FADD, FSUB, FMUL, FDIV. -/
def fBody (c : Nat) (op : FOp) (sur : Nat) (f : FForm) (cnt : Nat) (s : State) : Except Stop Done :=
  fpRun s c sur cnt do
    let o ← fIn s c f
    let r := fpRes op (roundMode s c) o.a o.b
    let s ← fpConds s c r.cond
    .ok (Done.of (applySides (wrF s c o.fd r.val) c o.sides) cnt)

def execFadd (c : Nat) (f : FForm) (s : State) : Out :=
  runCore s (fRunOf (.fadd c f) c f .fadd fun r => [32 + r.val]) (fBody c .add 560 f (fCount 4 6 8 f))
def execFsub (c : Nat) (f : FForm) (s : State) : Out :=
  runCore s (fRunOf (.fsub c f) c f .fadd fun r => [32 + r.val]) (fBody c .sub 560 f (fCount 4 6 8 f))
def execFmul (c : Nat) (f : FForm) (s : State) : Out :=
  runCore s (fRunOf (.fmul c f) c f .fmul fun r => [32 + r.val]) (fBody c .mul 720 f (fCount 5 7 9 f))
def execFdiv (c : Nat) (f : FForm) (s : State) : Out :=
  runCore s (fRunOf (.fdiv c f) c f .fdiv fun r => [32 + r.val]) (fBody c .div 2300 f (fCount 22 24 26 f))

/-- R257: FCMP sets CC alone. -/
def fcmpBody (c : Nat) (f : FForm) (s : State) : Except Stop Done :=
  fpRun s c 300 (fCount 2 4 6 f) do
    let o ← fIn s c f
    let r := fCmp o.a o.b
    let s ← fpConds s c r.2
    .ok (Done.of (applySides (setCc s c r.1) c o.sides) (fCount 2 4 6 f))

def execFcmp (c : Nat) (f : FForm) (s : State) : Out :=
  runCore s (fRunOf (.fcmp c f) c f .none fun _ => [64]) (fcmpBody c f)

def fUnRun (i : Instr) (c : Nat) (f : UnForm) (unit : Fu) (so dO : Nat) : Run :=
  ⟨c, some (unStorage f), if unStorage f then 2 else 3, none,
    tmOf (unStorage f) true unit [so + (unRegs f).2.val] [dO + (unRegs f).1.val], i.wf⟩

def fsqrtBody (c : Nat) (f : UnForm) (s : State) : Except Stop Done :=
  fpRun s c 2700 (unCount f 28 30) do
    let a ← rdF s c (unRegs f).2
    let r := fSqrt (roundMode s c) a
    let s ← fpConds s c r.cond
    .ok (Done.of (wrF s c (unRegs f).1 r.val) (unCount f 28 30))

def execFsqrt (c : Nat) (f : UnForm) (s : State) : Out :=
  runCore s (fUnRun (.fsqrt c f) c f .fdiv 32 32) (fsqrtBody c f)

/-- R258. -/
def fcvtToFixBody (c : Nat) (f : UnForm) (s : State) : Except Stop Done :=
  fpRun s c 380 (unCount f 4 6) do
    let a ← rdF s c (unRegs f).2
    let r := fToFix (roundMode s c) a
    let s ← fpConds s c r.cond
    .ok (Done.of (wrG s c (unRegs f).1 (fix r.val)) (unCount f 4 6))

def execFcvtToFix (c : Nat) (f : UnForm) (s : State) : Out :=
  runCore s (fUnRun (.fcvtToFix c f) c f .none 32 0) (fcvtToFixBody c f)

/-- R259: any tag but FIX and RAW, POISON among them, is a mismatch. -/
def fcvtToFloatBody (c : Nat) (f : UnForm) (s : State) : Except Stop Done :=
  fpRun s c 380 (unCount f 4 6) do
    let a ← rdG s c (unRegs f).2
    if !isInt a then tagMismatch 1 a
    else
      let r := fOfFix (roundMode s c) a.pay
      let s ← fpConds s c r.cond
      .ok (Done.of (wrF s c (unRegs f).1 r.val) (unCount f 4 6))

def execFcvtToFloat (c : Nat) (f : UnForm) (s : State) : Out :=
  runCore s (fUnRun (.fcvtToFloat c f) c f .none 0 32) (fcvtToFloatBody c f)

/-- R256: FMOV copies bit for bit. -/
def fmovBody (c : Nat) (fd fa : Reg) (s : State) : Except Stop Done :=
  fpRun s c 140 1 do
    let a ← rdF s c fa
    .ok (Done.of (wrF s c fd a) 1)

def execFmov (c : Nat) (fd fa : Reg) (s : State) : Out :=
  runCore s ⟨c, some false, 3, none, tmOf false true .none [32 + fa.val] [32 + fd.val], (Instr.fmov c fd fa).wf⟩
    (fmovBody c fd fa)

end Sys2Proof.Machine
end

