-- ==== Sys2Proof/Machine/LoadStore.lean ====
section
/-! DEFINITION. Plain loads and stores (R92, R93), LDF and STF, LDM and STM (R352 to R354). -/

namespace Sys2Proof.Machine

/-- R277: an access whose bytes span two words. -/
def spans (a n : Nat) : Bool := 8 < a % 8 + n

/-- R92, R93: what a load of `size` bytes at `a` delivers to a G register. -/
def loadWord (s : State) (c size a : Nat) : Except Stop TWord := do
  checkBytes s c .read 1 a size
  if isCtl a then .ok ⟨if size = 8 then 0 else 0x10, BitVec.ofNat 64 (beNat (ctlLoad s a size))⟩
  else if size = 8 ∧ a % 8 = 0 then
    let w := wholeWord s c a
    wordBarrier s c w true
    .ok w
  else
    let bs ← wholeBytes s c a size
    .ok ⟨if size = 8 then 0 else 0x10, BitVec.ofNat 64 (beNat bs)⟩

/-- A far access of `n` words: what it does if no check refuses it, or the exception of its verdict. It waits at
the boundary while the queue has no room (R277, R279). -/
def farDone (s : State) (c n : Nat) (r : Except Stop FarKind) : Except Stop Done :=
  if 32 < farWords (getCore s c) + n then .error .wait
  else match r with
    | .ok k => .ok { Done.of s 0 with far := some (k, n, none) }
    | .error (.exc e) => .ok { Done.of s 0 with far := some (.pre 0 [], n, some e) }
    | .error x => .error x

/-- R275: an access of the form's mode is a pipelined far access. -/
def farHere (s : State) (m : Mem) (a : Nat) : Bool := !m.storage && isDram s a

/-- R20: a load or store of a ledger core at steward entry in another cell's window makes a transfer between the cells
(log entry 129). -/
def meshCost (s : State) (c a : Nat) : Nat :=
  match locOf s.part (cellOf c) a with
  | .cell n _ => if c < 256 && cellOf c ≠ some n then 576 else 0
  | _ => 0

def loadCount (m : Mem) (a size : Nat) : Nat :=
  if m.storage then 5 + memCost m else if spans a size then 4 else 3

/-- LD1 to LD8. -/
def loadBody (c size : Nat) (rd : Reg) (m : Mem) (s : State) : Except Stop Done := do
  let e ← eaOf s c 1 size false m
  if farHere s m e.a then
    farDone s c (wordSpan e.a size)
      ((loadWord s c size e.a).map (.loadG (ctxLevel s c).1 (ctxLevel s c).2 (some rd) e.a size))
  else
    checkBytes s c .read 1 e.a size
    needFar s c [(e.a, size)]
    let w ← loadWord s c size e.a
    .ok (Done.of (applySides (wrG s c rd w) c [e]) (loadCount m e.a size + meshCost s c e.a))

def rmRun (i : Instr) (c : Nat) (m : Mem) (unit : Fu) (srcs dsts : List Nat) : Run :=
  ⟨c, some m.storage, rmLen 2 m, memUnd 2 m, tmOf m.storage true unit (memSrcs m) dsts srcs, i.wf⟩

def execLd1 (c : Nat) (rd : Reg) (m : Mem) (s : State) : Out :=
  runCore s (rmRun (.ld1 c rd m) c m .load [] [rd.val]) (loadBody c 1 rd m)
def execLd2 (c : Nat) (rd : Reg) (m : Mem) (s : State) : Out :=
  runCore s (rmRun (.ld2 c rd m) c m .load [] [rd.val]) (loadBody c 2 rd m)
def execLd4 (c : Nat) (rd : Reg) (m : Mem) (s : State) : Out :=
  runCore s (rmRun (.ld4 c rd m) c m .load [] [rd.val]) (loadBody c 4 rd m)
def execLd8 (c : Nat) (rd : Reg) (m : Mem) (s : State) : Out :=
  runCore s (rmRun (.ld8 c rd m) c m .load [] [rd.val]) (loadBody c 8 rd m)

/-- What a store writes, after its checks (R92, R93, R183, R187), and the card it marks. -/
structure StoreOut where
  w : PWrite
  card : Option (Nat × Nat)

/-- R92: the checks and the write of a store of `size` bytes of `v` at `a`. -/
def storeOut (s : State) (c size : Nat) (v : TWord) (a : Nat) (src : Option TWord) : Except Stop StoreOut := do
  let bs := beBytes size (v.pay.toNat % 256 ^ size)
  if size = 8 ∧ a % 8 = 0 then
    checkBytes s c .write 1 a 8
    wordBarrier s c v false
    let k := cardOf s c a (containerGen src) v
    cardCheck s c k
    .ok ⟨⟨a, bs, v.tag, true⟩, k⟩
  else
    checkBytes s c .write 1 a size
    (if isCtl a then .ok () else poisonFree s c a size)
    .ok ⟨⟨a, bs, 0, false⟩, none⟩

/-- R93, R163: the register of a short store is read as a value; R92: an unaligned ST8 needs RAW. -/
def storeReg (size a : Nat) (v : TWord) : Except Stop Unit :=
  if size < 8 && isPoison v then poisonUse v
  else if size = 8 && a % 8 ≠ 0 && v.tag ≠ 0 then raise 4 1 (a % 2 ^ 32)
  else .ok ()

def storeCount (m : Mem) (a size : Nat) : Nat :=
  if m.storage then 5 + memCost m
  else if size = 8 then (if a % 8 = 0 then 2 else 3)
  else if spans a size then 2 else 1

/-- A checked store is made: control space, whole-core, or by way of the store buffer. -/
def storeMake (s : State) (c : Nat) (m : Mem) (o : StoreOut) : State :=
  if isCtl o.w.a then ctlStore s o.w.a o.w.bs o.w.tag
  else if m.storage then cardMark (wholeWrite s c o.w) c o.card
  else cardMark (bufferStore s c o.w) c o.card

/-- ST1 to ST8. -/
def storeBody (c size : Nat) (rd : Reg) (m : Mem) (s : State) : Except Stop Done := do
  let v ← rdG s c rd
  let e ← eaOf s c 1 size true m
  storeReg size e.a v
  if farHere s m e.a then
    let r := storeOut s c size v e.a e.src
    let s1 := match r with | .ok o => cardMark s c o.card | .error _ => s
    farDone s1 c (wordSpan e.a size) (r.map fun o =>
      let w := { o.w with st8 := false }
      .store (match o.card with | some k => markOver k w | none => w))
  else
    checkBytes s c .write 1 e.a size
    (if size = 8 ∧ e.a % 8 = 0 then .ok () else needFar s c [(e.a, size)])
    let o ← storeOut s c size v e.a e.src
    .ok (Done.of (applySides (storeMake s c m o) c [e]) (storeCount m e.a size + meshCost s c e.a))

def execSt1 (c : Nat) (rd : Reg) (m : Mem) (s : State) : Out :=
  runCore s (rmRun (.st1 c rd m) c m .store [rd.val] []) (storeBody c 1 rd m)
def execSt2 (c : Nat) (rd : Reg) (m : Mem) (s : State) : Out :=
  runCore s (rmRun (.st2 c rd m) c m .store [rd.val] []) (storeBody c 2 rd m)
def execSt4 (c : Nat) (rd : Reg) (m : Mem) (s : State) : Out :=
  runCore s (rmRun (.st4 c rd m) c m .store [rd.val] []) (storeBody c 4 rd m)
def execSt8 (c : Nat) (rd : Reg) (m : Mem) (s : State) : Out :=
  runCore s (rmRun (.st8 c rd m) c m .store [rd.val] []) (storeBody c 8 rd m)

/-- R92: what LDF loads. -/
def loadFlt (s : State) (c a : Nat) : Except Stop Word := do
  checkBytes s c .read 1 a 8
  if isCtl a then .ok (BitVec.ofNat 64 (beNat (ctlLoad s a 8))) else fltAt s c 1 a

/-- The count of LDF at its own address (R292). -/
def ldfCount (s : State) (c : Nat) (m : Mem) : Nat :=
  match eaOf s c 1 8 false m with
  | .ok e => loadCount m e.a 8
  | .error _ => loadCount m 0 8

def ldfBody (c : Nat) (fd : Reg) (m : Mem) (s : State) : Except Stop Done :=
  fpRun s c 200 (ldfCount s c m) do
    let e ← eaOf s c 1 8 false m
    if farHere s m e.a then
      farDone s c (wordSpan e.a 8) ((loadFlt s c e.a).map (.loadF (ctxLevel s c).1 (ctxLevel s c).2 (some fd) e.a))
    else
      checkBytes s c .read 1 e.a 8
      needFar s c [(e.a, 8)]
      let v ← loadFlt s c e.a
      .ok (Done.of (applySides (wrF s c fd v) c [e]) (loadCount m e.a 8 + meshCost s c e.a))

def execLdf (c : Nat) (fd : Reg) (m : Mem) (s : State) : Out :=
  runCore s (rmRun (.ldf c fd m) c m .load [] [32 + fd.val]) (ldfBody c fd m)

def stfBody (c : Nat) (fd : Reg) (m : Mem) (s : State) : Except Stop Done :=
  let cnt := if m.storage then 5 + memCost m else 1
  fpRun s c 200 cnt do
    let v ← rdF s c fd
    let e ← eaOf s c 1 8 true m
    aligned 1 e.a
    let w : PWrite := ⟨e.a, wordBytes v, 0x30, false⟩
    if farHere s m e.a then
      farDone s c 1 ((checkBytes s c .write 1 e.a 8).map fun _ => .store w)
    else
      checkBytes s c .write 1 e.a 8
      .ok (Done.of (applySides (storeMake s c m ⟨w, none⟩) c [e]) (cnt + meshCost s c e.a))

def execStf (c : Nat) (fd : Reg) (m : Mem) (s : State) : Out :=
  runCore s (rmRun (.stf c fd m) c m .store [32 + fd.val] []) (stfBody c fd m)

-- LDM and STM

/-- R352: the mask, or TAG_MISMATCH. -/
def maskOf (m : Mem) (w : TWord) : Except Stop Nat :=
  if !isFix w || fld w.pay 63 32 ≠ 0 || (m.storage && fld w.pay 31 16 ≠ 0) then tagMismatch 1 w
  else .ok (fld w.pay 31 0)

/-- The base register of a memory operand. -/
def memBase : Mem → Option Nat
  | .reg (.ptr b _) | .reg (.ptrX _ b _ _) => some b.val
  | .sto m => if m.b = 0 then none else some m.b.val
  | _ => none

/-- One register of LDM: the state with Gk loaded, or pending from cycle `t` on. -/
def ldmOne (c : Nat) (k : Reg) (a t : Nat) (s : State) : Except Stop State := do
  let w ← loadWord s c 8 a
  if isDram s a then
    .ok (pushFar (pendG (wrG s c k w) c k) c
      ⟨.loadG (ctxLevel s c).1 (ctxLevel s c).2 (some k) a 8 w, t * cyc, 1⟩)
  else .ok (wrG s c k w)

/-- One register of STM; a far write starts in cycle `t`. -/
def stmOne (c : Nat) (src : Option TWord) (k : Reg) (a t : Nat) (s : State) : Except Stop State := do
  let v ← rdG s c k
  let o ← storeOut s c 8 v a src
  let o : StoreOut := ⟨{ o.w with st8 := false }, o.card⟩
  .ok (if isCtl a then ctlStore s a o.w.bs o.w.tag else cardMark (wholeWriteAt s c (t * cyc) o.w) c o.card)

/-- R354: the registers of a mask in ascending order; the mask register loses each bit as it completes.
A fault leaves what is done. `st` is the instruction's start; word j of a far transfer starts at `st` + j, or
when the queue of R277 has room, and is refused at its verdict (R276). -/
def maskRun (one : Reg → Nat → Nat → State → Except Stop State) (c : Nat) (rm : Reg) (a st : Nat) :
    List Nat → Nat → Nat → State → Except Stop State
  | [], _, _, s => .ok s
  | k :: r, mask, t, s =>
    let kr : Reg := Fin.ofNat 32 k
    let far := isDram s (a + 8 * k)
    let t := if far then max t (farFree 1 (farStarts (getCore s c))) else t
    match one kr (a + 8 * k) t s with
    | .ok s1 => maskRun one c rm a st r (mask - 2 ^ k) (t + 1) (wrG s1 c rm (fixN (mask - 2 ^ k)))
    | .error (.exc e) => .error (.part s (if far then t + 62 - st else 3) e)
    | .error x => .error x

/-- R353: a mask that names what it may not. -/
def maskBad (load : Bool) (rd : Reg) (m : Mem) (mask : Nat) : Bool :=
  mask / 2 ^ rd.val % 2 = 1 ||
  (load && (match memBase m with | some b => mask / 2 ^ b % 2 = 1 | none => false))

def maskBits (mask : Nat) : List Nat := (List.range 32).filter fun k => mask / 2 ^ k % 2 = 1

/-- R276: cycles from the start `st` to the verdict of the last far word. -/
def farLeast (s : State) (c st a : Nat) (ks : List Nat) : Nat :=
  if ks.any fun k => isDram s (a + 8 * k) then
    (match (getCore s c).far.getLast? with | some f => f.start / cyc + 64 - st | none => 0)
  else 0

/-- LDM and STM; STM reads the registers `data`. -/
def multiRun (i : Instr) (c : Nat) (rd : Reg) (m : Mem) (data : List Nat) : Run :=
  ⟨c, some m.storage, rmLen 2 m, memUnd 2 m, Tm.core (rd.val :: memSrcs m) data, i.wf⟩

def ldmBody (c : Nat) (rd : Reg) (m : Mem) (s : State) : Except Stop Done := do
  let w ← rdG s c rd
  let mask ← maskOf m w
  if maskBad true rd m mask then raise 1 2 (if m.isLong then 2 else 1)
  else
    let e ← eaOf s c 1 8 false m
    aligned 1 e.a
    let ks := maskBits mask
    let st := startOf s (multiRun (.ldm c rd m) c rd m [])
    let s1 ← maskRun (ldmOne c) c rd e.a st ks mask st s
    .ok { Done.of (applySides s1 c [e])
            ((if m.storage then 6 + memCost m else 4) + ks.length) with least := farLeast s1 c st e.a ks }

/-- The registers that STM reads. -/
def stmSrcs (s : State) (c : Nat) (rd : Reg) : List Nat := maskBits (fld (peekG s c rd).pay 31 0)

def stmBody (c : Nat) (rd : Reg) (m : Mem) (s : State) : Except Stop Done := do
  let w ← rdG s c rd
  let mask ← maskOf m w
  if maskBad false rd m mask then raise 1 2 (if m.isLong then 2 else 1)
  else
    let e ← eaOf s c 1 8 true m
    aligned 1 e.a
    let ks := maskBits mask
    if ks.any fun k => bit (curBank s c).pend k then .error .wait
    else
      let st := startOf s (multiRun (.stm c rd m) c rd m (stmSrcs s c rd))
      let s1 ← maskRun (stmOne c e.src) c rd e.a st ks mask st s
      .ok { Done.of (applySides s1 c [e])
              ((if m.storage then 6 + memCost m else 4) + 2 * ks.length) with least := farLeast s1 c st e.a ks }

def execLdm (c : Nat) (rd : Reg) (m : Mem) (s : State) : Out :=
  runCore s (multiRun (.ldm c rd m) c rd m []) (ldmBody c rd m)
def execStm (c : Nat) (rd : Reg) (m : Mem) (s : State) : Out :=
  runCore s (multiRun (.stm c rd m) c rd m (stmSrcs s c rd)) (stmBody c rd m)

end Sys2Proof.Machine
end

