-- ==== Sys2Proof/Machine/Custom.lean ====
section
/-! DEFINITION. CUST and customer micro-routines (R7, R129, R130, R136, R147, R298 to R315). Points of the
micro-operations that the spec leaves open are in log entry 16. -/

namespace Sys2Proof.Machine

-- encoding

/-- R129, R130, R132: the offset of the first prefix byte that cannot stand where it does. -/
def custPre (storage rep long : Bool) : Nat → List Byte → Option Nat
  | i, [] => if rep then some i else none
  | i, b :: r =>
    if b = 0xF0 ∨ b = 0xF1 then (if rep || long then some i else custPre storage true long (i + 1) r)
    else if b = 0xF2 then (if storage || long then some i else custPre storage rep true (i + 1) r)
    else some i

/-- R136, R147: the offset of the body byte that makes a CUST undefined, from the form byte on. -/
def custBodyUnd (storage long : Bool) : CustBody → Option Nat
  | .none => if long then some 0 else none
  | .rrr rd ra rb =>
    if long then some 0
    else if storage && !(lowReg rd && lowReg ra) then some 1
    else if storage && !lowReg rb then some 2
    else none
  | .rm rd m => if storage && !lowReg rd then some 1 else memUnd 2 m
  | .reserved => some 0

/-- The offset of the byte that makes a CUST undefined (R128). -/
def custUnd (storage : Bool) (pre : List Byte) (b : CustBody) : Option Nat :=
  match custPre storage false false 0 pre with
  | some o => some o
  | none => (custBodyUnd storage (pre ≠ []) b).map (· + (pre.length + 2))

/-- Bytes of a CUST. -/
def custLen (pre : List Byte) : CustBody → Nat
  | .none | .reserved => pre.length + 3
  | .rrr .. => pre.length + 5
  | .rm _ m => pre.length + 4 + memBytes m - b2n m.isLong

/-- The prefixes and the specifier go together: a LONG prefix and a long specifier. -/
def custWf (pre : List Byte) : CustBody → Bool
  | .rm _ m => m.storage || (pre.contains 0xF2 == m.isLong)
  | _ => true

/-- R136: the FORM of a body. -/
def custForm : CustBody → Nat
  | .none => 0
  | .rrr .. => 1
  | .rm .. => 2
  | .reserved => 3

-- the routine

/-- R306: what an integer micro-operation delivers. -/
structure MicroAlu where
  val : Word
  carry : Bool
  ovf : Bool
  deriving DecidableEq, Repr

/-- A routine in execution: temporaries, the commit buffer of R313 (registers by operand code, newest
first; stores in order; FL.V), results by their time of delivery, newest first, the latest start of
each kind of operation, the size of its latest load at the instruction's memory operand, and whether it has started a
binary64 operation. -/
structure MicroRun where
  u : Tbl TWord
  regs : List (Nat × TWord)
  stores : List PWrite
  flv : Bool
  cc : List (Nat × Nat)
  alu : List (Nat × MicroAlu)
  dec : List (Nat × Word × Bool)
  last : Tbl Nat
  size : Option Nat
  fp : Bool
  deriving DecidableEq, Repr

def MicroRun.start (cc : Nat) : MicroRun := ⟨[], [], [], false, [(0, cc)], [], [], [], none, false⟩

/-- The register that rd, ra or rb names, if the body has the field. -/
def custField (b : CustBody) (k : Nat) : Option Reg :=
  match b, k with
  | .rrr rd _ _, 0 => some rd
  | .rrr _ ra _, 1 => some ra
  | .rrr _ _ rb, 2 => some rb
  | .rm rd _, 0 => some rd
  | _, _ => none

/-- R305: the register code that an operand code stands for. -/
def microCode (b : CustBody) (code : Nat) : Option Nat :=
  if 0x38 ≤ code ∧ code ≤ 0x3A then (custField b (code - 0x38)).map (·.val) else some code

/-- R306: integer and tag micro-operations; a quotient by zero is `free` (log entry 16). -/
def microItop (free : Word) (n : BitVec 160) (a b : TWord) : MicroAlu :=
  let r := fun (op : IOp) => let x := intRes op a.pay b.pay; (⟨x.val, false, x.ovf⟩ : MicroAlu)
  match nwItop n with
  | 0x01 => { r .add with carry := decide (2 ^ 64 ≤ a.pay.toNat + b.pay.toNat) }
  | 0x02 => { r .sub with carry := decide (b.pay.toNat ≤ a.pay.toNat) }
  | 0x03 => r .and
  | 0x04 => r .or
  | 0x05 => r .xor
  | 0x06 => r .shl
  | 0x07 => r .shr
  | 0x08 => r .sar
  | 0x09 => r .mul
  | 0x0A =>
    if b.pay = 0 then ⟨free, false, bit free 0⟩ else
    let q := ofExact (a.pay.toInt.tdiv b.pay.toInt); ⟨q.val, false, q.ovf⟩
  | 0x0B => { r .sub with carry := decide (b.pay.toNat ≤ a.pay.toNat) }
  | 0x0C => ⟨a.pay, false, false⟩
  | 0x0D => ⟨nwConst n, false, false⟩
  | _ => ⟨BitVec.ofNat 64 a.tag.toNat, false, false⟩

/-- Cycles after which an integer micro-operation delivers. -/
def itopTime (n : BitVec 160) : Nat := match nwItop n with | 0x09 => 4 | 0x0A => 34 | _ => 1

/-- R306: binary64 micro-operations. -/
def microFp (n : BitVec 160) (rm : Nat) (a b : TWord) : Word :=
  match nwFmop n with
  | 3 => (fAdd rm a.pay b.pay).val
  | 4 => (fSub rm a.pay b.pay).val
  | 5 => (fMul rm a.pay b.pay).val
  | 6 => (fDiv rm a.pay b.pay).val
  | _ => (fSqrt rm a.pay).val

/-- R307: the tag checks of a microword. -/
def microTrap (n : BitVec 160) (a b : TWord) : Except Stop Unit :=
  let chk := fun (info : Nat) (w : TWord) =>
    (if isPoison w then poisonUse w
     else if nwTagmask n / 2 ^ tagClass w % 2 = 1 then .ok ()
     else tagMismatch info w : Except Stop Unit)
  do
    if nwTrap n % 2 = 1 then chk 1 a else .ok ()
    if nwTrap n / 2 % 2 = 1 then chk 2 b else .ok ()

/-- Access size of MSIZE. -/
def microSize (n : BitVec 160) : Nat := 2 ^ (nwMsize n % 4)

/-- R307, R315: a routine reaches `len` bytes at `p`. -/
def microReach (s : State) (c : Nat) (k : Kind) (p len : Nat) : Except Stop Nat :=
  match (List.range len).find? fun i => (match locOf s.part (cellOf c) (p + i) with | .cell .. => false | _ => true) with
  | some i => raise 6 0x45 ((p + i) / 256)
  | none => do
    checkBytes s c k 1 p len
    .ok p

/-- R187, R307: the address of a memory micro-operation, with its checks. -/
def microAddr (s : State) (c : Nat) (e : Option Ea) (n : BitVec 160) (a : TWord) (k : Kind) : Except Stop Nat := do
  let wr := k = .write
  let p ←
    if nwAsel n = 0 then
      match e with
      | some e => do
        (match e.src with | some w => immutable 1 wr w | none => .ok ())
        .ok e.a
      | none => .ok (fld (Config.microTemp s.free 12).pay 39 0)
    else if isPoison a then poisonUse a
    else if !isPtr a || fld a.pay 63 40 ≠ 0 then tagMismatch 1 a
    else do
      immutable 1 wr a
      let p ← inSpace 1 ((fld a.pay 39 0 : Int) + sx 18 (fld n 17 0))
      baseBarrier s c (some a)
      .ok p
  microReach s c k p (microSize n)

/-- Bytes and tags as the routine sees them, with its own buffered stores (R274, R313). -/
def microByte (s : State) (c : Nat) (m : MicroRun) (a : Nat) : Byte :=
  (overByte m.stores (physOf (cellOf c) a)).getD (seeByte s c a)

def microWordAt (s : State) (c : Nat) (m : MicroRun) (a : Nat) : TWord :=
  ⟨(overTag m.stores (physOf (cellOf c) a)).getD (seeTag s c a),
   BitVec.ofNat 64 (beNat ((List.range 8).map fun i => microByte s c m (a / 8 * 8 + i)))⟩

/-- R92, R93: a load. A FWD word raises READ_BARRIER at Ledger and Rule, which never hold one (R160), as LD8 does (log
entry 128). -/
def microLoad (s : State) (c : Nat) (m : MicroRun) (a len : Nat) : Except Stop TWord :=
  let w := microWordAt s c m a
  if len = 8 ∧ a % 8 = 0 then
    if tagClass w = 8 && 2 ≤ (curBank s c).priv && c < 256 then raise 0x13 0xC0 0 else .ok w
  else match ((List.range len).map fun i => microWordAt s c m (a + i)).find? isPoison with
    | some w => poisonUse w
    | none => .ok ⟨if len = 8 then 0 else 0x10, BitVec.ofNat 64 (beNat ((List.range len).map fun i => microByte s c m (a + i)))⟩

/-- R92, R93: a store, into the commit buffer. It is no ST8 of R179. -/
def microStore (s : State) (c : Nat) (m : MicroRun) (a len : Nat) (v : TWord) : Except Stop MicroRun := do
  storeReg len a v
  let bs := beBytes len (v.pay.toNat % 256 ^ len)
  let p := physOf (cellOf c) a
  if len = 8 ∧ a % 8 = 0 then .ok { m with stores := m.stores ++ [⟨p, bs, v.tag, false⟩] }
  else match ((List.range len).map fun i => microWordAt s c m (a + i)).find? isPoison with
    | some w => poisonUse w
    | none => .ok { m with stores := m.stores ++ [⟨p, bs, 0, false⟩] }

/-- R305 x3B: the data at the instruction's memory operand as the routine sees it, in the size of its latest load
there (log entry 16). -/
def microData (s : State) (c : Nat) (e : Option Ea) (m : MicroRun) (n : BitVec 160) : Except Stop TWord :=
  match e with
  | none => .ok (Config.microTemp s.free 8)
  | some x => do
    let len := m.size.getD (microSize n)
    let p ← microReach s c .read x.a len
    microLoad s c m p len

/-- R160: what an accumulator gives as a word is an amount: of class RAW, FIX, DEC or FLT (log entry 16). -/
def amountWord (w : TWord) : TWord :=
  ⟨match fld w.tag 5 4 with | 0 => 0 | 1 => 0x10 | 2 => BitVec.ofNat 8 (0x20 + fld w.tag 3 0) | _ => 0x30, w.pay⟩

/-- R305, R313: a source. -/
def microSrc (s : State) (c : Nat) (b : CustBody) (e : Option Ea) (m : MicroRun) (n : BitVec 160) (code : Nat) :
    Except Stop TWord :=
  match microCode b code with
  | none => .ok (Config.microTemp s.free (code - 0x30))
  | some k =>
    if k = 0x3B then microData s c e m n
    else if 0x28 ≤ k then .ok (tget (Config.microTemp s.free (k - 0x28)) m.u (k - 0x28))
    else match m.regs.find? fun e => e.1 = k with
      | some e => .ok e.2
      | none =>
        if k < 32 then rdG s c (Fin.ofNat 32 k)
        else if k = 0x24 then .ok (fix (curBank s c).ct)
        else .ok (amountWord (Config.microAccRead ((curBank s c).a[k % 4]'(Nat.mod_lt _ (by decide)))))

/-- A result reaches its destination. -/
def microDest (s : State) (c : Nat) (b : CustBody) (e : Option Ea) (m : MicroRun) (n : BitVec 160) (a v : TWord) :
    Except Stop MicroRun :=
  match microCode b (nwDest n) with
  | none => .ok m
  | some k =>
    if k = 0x3B then do
      let p ← microAddr s c e n a .write
      microStore s c m p (microSize n) v
    else if 0x28 ≤ k then .ok { m with u := tset m.u (k - 0x28) v }
    else .ok { m with regs := (k, v) :: m.regs }

/-- R192: a decimal result, its sign and declets canonical. -/
def decCanon (w : Word) : Word := decPay (signed (fld w 63 60) (decletsVal 6 (fld w 59 0)))

/-- R212, R304: the residue check of a decimal micro-operation's result. -/
def microResidue (n : BitVec 160) (a v : TWord) (r : Word) : Except Stop Unit :=
  residueStep (nwRmod n) (!nwRchk n ||
    decide (Config.microPredict (nwRmod n) (nwRrule n) a v (nwConst n) % nwRmod n
      = residue (nwRmod n) (signed (fld r 63 60) (decletsVal 6 (fld r 59 0)))))

/-- TSRC: the tag of a result. -/
def microTag (n : BitVec 160) (a : TWord) : Byte :=
  match nwTsrc n with | 0 => 0x10 | 1 => 0 | 2 => a.tag | _ => nwRtag n

/-- The operations of one microword that executes in cycle `t` (R306, R307). -/
def microAct (s : State) (c : Nat) (b : CustBody) (e : Option Ea) (t : Nat) (n : BitVec 160) (m : MicroRun) :
    Except Stop MicroRun := do
  let a ← if usesA n then microSrc s c b e m n (nwSrca n) else .ok (Config.microTemp s.free 13)
  let v ← if usesB n then microSrc s c b e m n (nwSrcb n) else .ok (Config.microTemp s.free 14)
  microTrap n a v
  let m := { m with last := (nwKinds n).foldl (fun l k => tset l k t) m.last }
  let m ←
    if nwItop n = 0 then .ok m
    else do
      let r := microItop (Config.microTemp s.free (16 + t)).pay n a v
      let m := { m with
        alu := (t + itopTime n, r) :: m.alu
        flv := m.flv || (nwFlg n && r.ovf)
        cc := if nwCcw n then
            (t + itopTime n, if nwItop n = 0x0B then cmpCc a.pay.toInt v.pay.toInt else cmpCc r.val.toInt 0) :: m.cc
          else m.cc }
      if nwItop n = 0x0B then .ok m
      else microDest s c b e m n a ⟨if nwItop n = 0x0E then 0x10 else microTag n a, r.val⟩
  let m ←
    if nwDcop n = 0 then .ok m
    else do
      let r := decCanon (Config.microDecimal s.free t (nwDcop n) (nwLanes n) a v (nwConst n))
      microResidue n a v r
      let ovf := bit (Config.microDecimal s.free t (16 + nwDcop n) (nwLanes n) a v (nwConst n)) 0
      let m := { m with
        dec := (t + 2, r, ovf) :: m.dec
        cc := if nwCcw n then (t + 2, (Config.microDecimal s.free t (32 + nwDcop n) (nwLanes n) a v (nwConst n)).toNat % 3) :: m.cc
          else m.cc }
      if nwDcop n = 6 ∨ nwItop n ≠ 0 then .ok m else microDest s c b e m n a ⟨microTag n a, r⟩
  match nwFmop n with
  | 0 => .ok m
  | 1 =>
    let p ← microAddr s c e n a .read
    let w ← microLoad s c m p (microSize n)
    let m := if nwAsel n = 0 then { m with size := some (microSize n) } else m
    if nwItop n ≠ 0 ∨ nwDcop n ≠ 0 then .ok m else microDest s c b e m n a w
  | 2 =>
    let p ← microAddr s c e n a .write
    microStore s c m p (microSize n) v
  | 8 => .ok (if nwCcw n then { m with cc := (t + 2, (fCmp a.pay v.pay).1) :: m.cc } else m)
  | _ =>
    if nwItop n ≠ 0 ∨ nwDcop n ≠ 0 then .ok m
    else microDest s c b e m n a ⟨microTag n a, microFp n (roundMode s c) a v⟩

/-- R301: the result delivered last by cycle `t`; of two delivered in one cycle, the one started later. -/
def delivered {α : Type} (rs : List (Nat × α)) (t : Nat) : Option α :=
  let ds := rs.filter fun r => r.1 ≤ t
  (ds.find? fun r => ds.all fun q => q.1 ≤ r.1).map (·.2)

/-- R301: a branch condition in cycle `t`, on the results delivered by then. -/
def microCond (s : State) (c : Nat) (m : MicroRun) (t bsel : Nat) (n : BitVec 160) (a : TWord) : Bool :=
  let free := (Config.microTemp s.free 15).pay
  let alu := (delivered m.alu t).getD ⟨free, bit free 0, bit free 1⟩
  let dec := (delivered m.dec t).getD (free, bit free 2)
  let cc := (delivered m.cc t).getD 0
  match bsel with
  | 0x01 => cc = 0
  | 0x02 => cc = 1
  | 0x03 => cc = 2
  | 0x04 => alu.val = 0
  | 0x05 => alu.val.msb
  | 0x06 => alu.carry
  | 0x07 => alu.ovf
  | 0x08 => nwTagmask n / 2 ^ tagClass a % 2 = 1
  | 0x09 => dec.1 = 0
  | 0x0A => dec.2
  | 0x0B => (match m.regs.find? fun e => e.1 = 0x24 with | some e => e.2.pay = 0 | none => (curBank s c).ct = 0)
  | 0x0E => (curBank s c).smode
  | _ => false

/-- R300, R301: the next microword, judged on what stood before the microword's own results; none at END. -/
def microNext (s : State) (c : Nat) (b : CustBody) (e : Option Ea) (m : MicroRun) (t : Nat) (w : BitVec 40)
    (n : BitVec 160) : Except Stop (Option Nat) := do
  let a ← if judgesA w then microSrc s c b e m n (nwSrca n) else .ok (Config.microTemp s.free 13)
  let v := if mwBsel w = 0x20 then tagClass a
    else ((delivered m.alu t).getD ⟨(Config.microTemp s.free 15).pay, false, false⟩).val.toNat % 16
  .ok (match mwSeq w with
    | 0 => some (mwNext w)
    | 1 => some (mwNext w / 2 * 2 + b2n (microCond s c m t (mwBsel w) n a))
    | 2 => some (mwNext w / 16 * 16 + v)
    | _ => none)

/-- R302: the cycle in which a microword reached in cycle `t` executes. -/
def microWait (m : MicroRun) (t : Nat) (w : BitVec 40) (n : BitVec 160) : Nat :=
  if mwWait w = 0x0B then t + nwTick n
  else if mwWait w = 0 then t
  else max t (tget 0 m.last (mwWait w) + waitTime (mwWait w))

/-- R293: an exception of a routine that has started a binary64 operation. -/
def microRaise {α : Type} (fp : Bool) (r : Except Stop α) : Except Stop α :=
  match r with
  | .error (.exc e) => .error (.exc { e with fp := fp })
  | _ => r

/-- R308: the routine from microword `at'` on, reached in cycle `t`. -/
def microRun (s : State) (c : Nat) (b : CustBody) (e : Option Ea) : Nat → Nat → Nat → MicroRun → Except Stop MicroRun
  | 0, _, _, m => .ok m
  | fuel + 1, at', t, m => do
    let w := tget 0 s.boot.micro at'
    let n := tget 0 s.boot.nano (mwNano w)
    let t := microWait m t w n
    let m := { m with fp := m.fp || decide (3 ≤ nwFmop n) }
    let m' ← microRaise m.fp (microAct s c b e t n m)
    match (← microRaise m.fp (microNext s c b e m t w n)) with
    | some k => microRun s c b e fuel k (t + 1) m'
    | none => .ok m'

/-- R313: the commit buffer is applied, in microword order. -/
def microCommit (s : State) (c : Nat) (m : MicroRun) : State :=
  let s := m.regs.reverse.foldl (fun (s : State) r =>
    if r.1 < 32 then wrG s c (Fin.ofNat 32 r.1) r.2
    else if r.1 = 0x24 then setBank s c { curBank s c with ct := r.2.pay }
    else
      let b := curBank s c
      let i : Fin 4 := Fin.ofNat 4 r.1
      let v := accVal (Config.microAccWrite b.a[i] r.2)
      setBank s c { b with a := b.a.set i (accOf (signOf v) v.natAbs) }) s
  let s := match m.cc with | x :: _ => setCc s c x.2 | [] => s
  let s := if m.flv then setFl s c 0 else s
  wholeWrites s c m.stores

/-- R314: an exception of the routine is entered when COUNT cycles have elapsed. -/
def atCount {α : Type} (k : Nat) (r : Except Stop α) : Except Stop α :=
  match r with
  | .error (.exc e) => .error (.exc { e with cycles := k })
  | x => x

/-- The operand codes of the registers that the microwords of a routine can read as sources. -/
def microReads (s : State) (entry : Nat) : List Nat :=
  let i : CustImage := ⟨s.boot.micro, s.boot.nano, []⟩
  (reached i 40000 [entry] []).flatMap fun a =>
    let n := ciNano i a
    (if usesA n || judgesA (ciMicro i a) then [nwSrca n] else []) ++ (if usesB n then [nwSrcb n] else [])

/-- R272: the general registers that a CUST is to find ready, its sources: those its routine can read, its waits
being fixed (log entry 16). -/
def custSrcs (s : State) (sel : Byte) (b : CustBody) : List Nat :=
  ((microReads s (csEntry (tget 0 s.boot.custSel sel.toNat))).filterMap (microCode b)).filter fun k => k < 32

/-- R275: one of the registers `rs` is pending. -/
def anyPending (s : State) (c : Nat) (rs : List Nat) : Bool := rs.any fun r => bit (curBank s c).pend r

/-- R311: a CUST instruction; a post-increment or pre-decrement operand of its body moves by 8 (log entry 120). -/
def custBody (c : Nat) (pre : List Byte) (sel : Byte) (b : CustBody) (s : State) : Except Stop Done := do
  let e := tget 0 s.boot.custSel sel.toNat
  if !hasFp s then raise 3 2 0
  else if !csValid e then raise 1 0 (pre.length + 1)
  else if csForm e ≠ custForm b then raise 1 0 (pre.length + 2)
  else if csLpriv e < (curBank s c).priv then raise 2 0 0
  else if anyPending s c (custSrcs s sel b) then .error .wait
  else atCount (csCount e) (do
    let ea ← match b with | .rm _ m => (eaOf s c 1 8 false m).map some | _ => .ok none
    let m ← microRun s c b ea 2048 (csEntry e) 0 (MicroRun.start (curBank s c).cc)
    let s := microCommit s c m
    .ok { Done.of (match ea with | some e => applySides s c [e] | none => s) (csCount e) with fp := m.fp })

/-- R213, R317: a residue check that failed in a routine is reported to the Barometer when it raises MACHINE_CHECK: code
x02 of the core. -/
def reportResidue (c : Nat) (o : Out) : Out :=
  match o with
  | .next t =>
    (match (getCore t c).exc with
     | some e =>
       if e.code = 0x1E && (e.info = 0x31 || e.info = 0x32) then
         .next (underGuard t fun t => react t 2 (if c < 256 then 1 else 3) (c % 256) 0 (.core c) e.info)
       else o
     | none => o)
  | _ => o

/-- R288 and R311: CUST is whole-core and lasts its COUNT; one that its core cannot take changes nothing. -/
def execCust (c : Nat) (pre : List Byte) (sel : Byte) (body : CustBody) (s : State) : Out :=
  let st := (curBank s c).smode
  let mode := match body with | .rm _ m => some m.storage | _ => none
  let srcs := match body with | .rm _ m => memSrcs m | _ => []
  let q : Run := ⟨c, mode, custLen pre body, custUnd st pre body, Tm.core srcs (custSrcs s sel body),
    (Instr.cust c pre sel body).wf && custWf pre body⟩
  if !(q.wf && coreReady s c mode) then .next s else reportResidue c (runCore s q (custBody c pre sel body))

end Sys2Proof.Machine
end

