-- ==== Sys2Proof/Machine/Generic.lean ====
section
/-! DEFINITION. Generic arithmetic and comparison (R164 to R173), TAGR and TAGS (R158, R159). -/

namespace Sys2Proof.Machine

/-- The generic operations of two operands. -/
inductive GOp where
  | add | sub | mul | div
  deriving DecidableEq, Repr

/-- An amount: value and scale, meaning value / 10^scale. -/
structure Amount where
  v : Int
  scale : Nat
  deriving DecidableEq, Repr

/-- R164 step 4: the value of a DEC word, or DECIMAL_DATA. -/
def decAmount (info : Nat) (w : TWord) : Except Stop Amount :=
  match decVal w.pay with
  | some v => .ok ⟨v, fld w.tag 3 0⟩
  | none => raise 0x0B info 0

/-- R155, R164 step 4: the value of an LDEC object. -/
def ldecAmount (s : State) (c info : Nat) (w : TWord) : Except Stop Amount := do
  let bs ← wholeBytes s c (fld w.pay 39 0) 48
  let n := field bs 0 1
  let sc := field bs 1 1
  if n < 1 ∨ 21 < n ∨ 63 < sc then raise 0x0B info 0
  else
    match decletsStrVal (slice bs 8 (cdiv (4 + 10 * n) 8)) with
    | .ok v => .ok ⟨v, sc⟩
    | .error o => raise 0x0B info (8 + o)

/-- The protection checks of an LDEC operand's object. -/
def ldecCheck (s : State) (c info : Nat) (w : TWord) : Except Stop Unit :=
  if tagClass w = 11 then do
    baseBarrier s c (some w)
    checkBytes s c .read info (fld w.pay 39 0) 48
  else .ok ()

def ldecRange (w : TWord) : List (Nat × Nat) :=
  if tagClass w = 11 then [(fld w.pay 39 0, 48)] else []

/-- The exact amount of a FIX, DEC or LDEC operand. -/
def amountOf (s : State) (c info : Nat) (w : TWord) : Except Stop Amount :=
  if tagClass w = 1 then .ok ⟨w.pay.toInt, 0⟩
  else if tagClass w = 2 then decAmount info w
  else ldecAmount s c info w

/-- Classes that generic arithmetic knows: FIX, DEC, FLT, LDEC. -/
def isAmount (w : TWord) : Bool :=
  let k := tagClass w
  k = 1 || k = 2 || k = 3 || k = 11

/-- R165: the class of a result, none where the matrix refuses. -/
def resultClass (ka kb : Nat) : Option Nat :=
  match ka, kb with
  | 1, 1 => some 1
  | 1, 2 => some 2
  | 1, 11 => some 11
  | 1, 3 => some 3
  | 2, 1 => some 2
  | 2, 2 => some 2
  | 2, 11 => some 11
  | 11, 1 => some 11
  | 11, 2 => some 11
  | 11, 11 => some 11
  | 3, 1 => some 3
  | 3, 3 => some 3
  | _, _ => none

/-- R166: the operands of an operation, brought to its scales. -/
def scaled (op : GOp) (a b : Amount) : Int × Int :=
  let m := max a.scale b.scale
  match op with
  | .add | .sub => (a.v * 10 ^ (m - a.scale), b.v * 10 ^ (m - b.scale))
  | .mul => (a.v, b.v)
  | .div => (a.v * 10 ^ (m + b.scale), b.v * 10 ^ a.scale)

/-- R166: the exact result, and whether a division left a remainder. -/
def exactOf (op : GOp) (a b : Amount) : Amount × Bool :=
  let m := max a.scale b.scale
  let x := (scaled op a b).1
  let y := (scaled op a b).2
  match op with
  | .add => (⟨x + y, m⟩, false)
  | .sub => (⟨x - y, m⟩, false)
  | .mul => (⟨x * y, a.scale + b.scale⟩, false)
  | .div => (⟨x.tdiv y, m⟩, decide (x.tmod y ≠ 0))

/-- The decimal operation that R212's check takes a generic one for. -/
def GOp.dec : GOp → DOp
  | .add => .add
  | .sub => .sub
  | .mul => .mul
  | .div => .div

/-- R166, R169: the INFO of GENERIC_OVERFLOW, if the result overflows its class. -/
def overflowInfo (k : Nat) (r : Amount) : Option Nat :=
  if k = 1 then (if r.v < -(2 ^ 63) ∨ 2 ^ 63 ≤ r.v then some 3 else none)
  else if k = 2 then
    (if 15 < r.scale then some 2 else if 10 ^ 18 ≤ r.v.natAbs then some 1 else none)
  else
    (if 63 < r.scale then some 2 else if 10 ^ 63 ≤ r.v.natAbs then some 1 else none)

/-- R168: the six words of an LDEC object that holds an amount. -/
def ldecObject (r : Amount) : List Byte :=
  let n := max 1 (cdiv (decLen 64 r.v.natAbs) 3)
  let l := cdiv (4 + 10 * n) 8
  [BitVec.ofNat 8 n, BitVec.ofNat 8 r.scale] ++ zeros 6 ++
    (fmtBytes .declets l (signOf r.v) r.v.natAbs ++ zeros (40 - l))

/-- R161, R169, R170: a POISON result names the instruction that made it. -/
def poisonHere (s : State) (c reason : Nat) : TWord :=
  ⟨BitVec.ofNat 8 (0xF0 + reason), BitVec.ofNat 64 (curBank s c).ia.toNat⟩

/-- R288: the count of an operation by the class of its result. -/
def genCount (op : GOp) (k : Nat) : Nat :=
  match op, k with
  | .add, 1 | .sub, 1 => 2
  | .add, 2 | .sub, 2 => 4
  | .add, 3 | .sub, 3 => 6
  | .add, _ | .sub, _ => 42
  | .mul, 1 => 5
  | .mul, 2 => 10
  | .mul, 3 => 7
  | .mul, _ => 140
  | .div, 1 => 35
  | .div, 2 => 140
  | .div, 3 => 24
  | .div, _ => 440

/-- R267: the surcharge of an emulated generic operation with a FLT result. -/
def genSur : GOp → Nat
  | .add | .sub => 600
  | .mul => 760
  | .div => 2340

/-- R171: an operand as binary64, and the conditions of its conversion. -/
def fltOperand (rm : Nat) (w : TWord) : FRes :=
  if tagClass w = 1 then fOfFix rm w.pay else ⟨w.pay, FCond.none⟩

/-- The conditions of two steps together. -/
def condOr (a b : FCond) : FCond :=
  ⟨a.nx || b.nx, a.uf || b.uf, a.of || b.of, a.dz || b.dz, a.iv || b.iv⟩

/-- The state and count that a generic operation leaves, whether it used the FP unit, and the cycles of emulation
in its count. -/
structure GenDone where
  s : State
  cnt : Nat
  fp : Bool
  emu : Nat

def GenDone.done (r : GenDone) : Done := { Done.of r.s r.cnt with fp := r.fp, emu := r.emu }

/-- A FLT result (R171). -/
def genFlt (c : Nat) (op : GOp) (rd : Reg) (a b : TWord) (s : State) : Except Stop GenDone := do
  let sur ← fpUnit s c (genSur op)
  let rm := roundMode s c
  let x := fltOperand rm a
  let y := fltOperand rm b
  let r := fpRes (match op with | .add => .add | .sub => .sub | .mul => .mul | .div => .div) rm x.val y.val
  let s ← fpStop (genCount op 3) sur (fpConds s c (condOr (condOr x.cond y.cond) r.cond))
  .ok ⟨wrG s c rd ⟨0x30, r.val⟩, genCount op 3 + sur, true, sur⟩

/-- R170: a zero divisor. -/
def genDivZero (c : Nat) (k : Nat) (rd : Reg) (bothFix : Bool) (s : State) : Except Stop GenDone :=
  if bothFix then
    if teBit s c 1 then raise 10 0 0
    else .ok ⟨setFl (wrG s c rd (poisonHere s c 2)) c 1, genCount .div k, false, 0⟩
  else if teBit s c 4 then raise 0x0D 2 0
  else .ok ⟨setFl (wrG s c rd (poisonHere s c 2)) c 3, genCount .div k, false, 0⟩

/-- R166 to R169: an exact FIX, DEC or LDEC result. -/
def genExact (c : Nat) (op : GOp) (k : Nat) (rd : Reg) (a b : Amount) (s : State) : Except Stop GenDone := do
  let top ← (if k = 11 then allocCheck s c 48 else .ok 0)
  let r := exactOf op a b
  residueStep 999 (k = 1 || opPasses 999 op.dec (scaled op a b).1 (scaled op a b).2 r.1.v)
  match overflowInfo k r.1 with
  | some info =>
    if teBit s c 2 then raise 8 info 0
    else .ok ⟨setFl (wrG s c rd (poisonHere s c 1)) c 4, genCount op k, false, 0⟩
  | none =>
    let w := if k = 1 then fixI r.1.v
      else if k = 2 then ⟨BitVec.ofNat 8 (0x20 + r.1.scale), decPay r.1.v⟩
      else ptr 11 true top
    let o := ldecObject r.1
    let s1 := if k = 11 then
        allocate s c 48 top [⟨top, slice o 0 8, 0x10, false⟩, ⟨top + 8, o.drop 8, 0, false⟩]
      else s
    let s1 := wrG s1 c rd w
    .ok ⟨if op = .div then setCc s1 c (b2n r.2) else s1, genCount op k, false, 0⟩

/-- R164: ADDG, SUBG, MULG and DIVG on two operands. -/
def genArith (c : Nat) (op : GOp) (rd : Reg) (a b : TWord) (s : State) : Except Stop GenDone := do
  if isPoison a then poisonUse a
  else if isPoison b then poisonUse b
  else if !isAmount a then tagMismatch 1 a
  else
    match resultClass (tagClass a) (tagClass b) with
    | none => tagMismatch 2 b
    | some k =>
      if k = 3 then genFlt c op rd a b s
      else
        ldecCheck s c 1 a
        ldecCheck s c 2 b
        needFar s c (ldecRange a ++ ldecRange b)
        let x ← amountOf s c 1 a
        let y ← amountOf s c 2 b
        if op = .div ∧ y.v = 0 then genDivZero c k rd (tagClass a = 1 && tagClass b = 1) s
        else genExact c op k rd x y s

def genBody (c : Nat) (op : GOp) (rd ra rb : Reg) (s : State) : Except Stop Done := do
  let a ← rdG s c ra
  let b ← rdG s c rb
  let r ← genArith c op rd a b s
  .ok r.done

def execAddg (c : Nat) (rd ra rb : Reg) (s : State) : Out :=
  runCore s (rrRun (.addg c rd ra rb) c [ra.val, rb.val]) (genBody c .add rd ra rb)
def execSubg (c : Nat) (rd ra rb : Reg) (s : State) : Out :=
  runCore s (rrRun (.subg c rd ra rb) c [ra.val, rb.val]) (genBody c .sub rd ra rb)
def execMulg (c : Nat) (rd ra rb : Reg) (s : State) : Out :=
  runCore s (rrRun (.mulg c rd ra rb) c [ra.val, rb.val]) (genBody c .mul rd ra rb)
def execDivg (c : Nat) (rd ra rb : Reg) (s : State) : Out :=
  runCore s (rrRun (.divg c rd ra rb) c [ra.val, rb.val]) (genBody c .div rd ra rb)

-- comparison (R172, R173)

/-- R173: the word that one level of forwarding reads for a pointer that lies in an evacuation entry. For a CODE
pointer inside a word this is the word that holds its address, and the read is checked as a data read of the
operand (log entry 112). -/
def fwdWord (s : State) (c : Nat) (w : TWord) : Option Nat :=
  let a := fld w.pay 39 0
  if tagClass w = 8 then none
  else match cellOf c with
    | none => none
    | some n => if bit (heapWord s n 0) 1 && (evacFind s n a).isSome then some (a / 8 * 8) else none

/-- R173: the protection check of that read. -/
def fwdCheck (s : State) (c info : Nat) (w : TWord) : Except Stop Unit :=
  match fwdWord s c w with
  | some a => checkBytes s c .read info a 8
  | none => .ok ()

def fwdRange (s : State) (c : Nat) (w : TWord) : List (Nat × Nat) :=
  match fwdWord s c w with
  | some a => [(a, 8)]
  | none => []

/-- R173: the address by which a pointer compares, after one level of forwarding. -/
def cmpAddr (s : State) (c : Nat) (w : TWord) : Nat :=
  match fwdWord s c w with
  | some a =>
    let v := wholeWord s c a
    if tagClass v = 8 then fld v.pay 39 0 else fld w.pay 39 0
  | none => fld w.pay 39 0

/-- R173: the object by which an LDEC operand compares, after one level of forwarding. -/
def cmpObj (s : State) (c : Nat) (w : TWord) : TWord :=
  if tagClass w = 11 then { w with pay := BitVec.ofNat 64 (cmpAddr s c w) } else w

/-- The byte ranges that an LDEC operand is known to be read from, those that its checks let pass. -/
def cmpReads (s : State) (c info : Nat) (w : TWord) : List (Nat × Nat) :=
  if tagClass w ≠ 11 || !(fwdCheck s c info w).isOk then []
  else
    let a := cmpAddr s c w
    fwdRange s c w ++
      if farMiss s c (fwdRange s c w) = [] && (checkBytes s c .read info a 48).isOk then [(a, 48)] else []

/-- R173, R374: the checks of an LDEC operand of CMPG, after the word that may forward it; no READ_BARRIER. Far words
come together with those of `all` (R276). -/
def cmpCheck (s : State) (c info : Nat) (w : TWord) (all : List (Nat × Nat)) : Except Stop Unit :=
  if tagClass w ≠ 11 then .ok ()
  else do
    fwdCheck s c info w
    (if farMiss s c (fwdRange s c w) = [] then .ok () else needFar s c all)
    checkBytes s c .read info (cmpAddr s c w) 48

/-- R172: an invalid DEC operand raises DECIMAL_DATA, whatever the other operand. -/
def decValid (info : Nat) (w : TWord) : Except Stop Unit :=
  if tagClass w = 2 then (decAmount info w).map fun _ => () else .ok ()

/-- R172, R288: the code, the count and whether the FP unit was used. A FLT operand needs the unit whatever the
other is (R164 step 3). An LDEC that meets a class it is not compared with by value is not read (log entry 144). -/
def genCmp (c : Nat) (a b : TWord) (s : State) : Except Stop GenDone := do
  let ka := tagClass a
  let kb := tagClass b
  let done (v cnt : Nat) : Except Stop GenDone := .ok ⟨setCc s c v, cnt, false, 0⟩
  if isPoison a then poisonUse a
  else if isPoison b then poisonUse b
  else if (ka = 3 ∧ (kb = 2 ∨ kb = 11)) ∨ (kb = 3 ∧ (ka = 2 ∨ ka = 11)) then tagMismatch 2 b
  else if (ka = 3 ∨ kb = 3) ∧ (ka = 1 ∨ ka = 3) ∧ (kb = 1 ∨ kb = 3) then
    let sur ← fpUnit s c 320
    let rm := roundMode s c
    let x := fltOperand rm a
    let y := fltOperand rm b
    let r := fCmp x.val y.val
    let s1 ← fpStop 4 sur (fpConds s c (condOr (condOr x.cond y.cond) r.2))
    .ok ⟨setCc s1 c r.1, 4 + sur, true, sur⟩
  else if (ka = 1 ∨ ka = 2 ∨ ka = 11) ∧ (kb = 1 ∨ kb = 2 ∨ kb = 11) then
    let all := cmpReads s c 1 a ++ cmpReads s c 2 b
    cmpCheck s c 1 a all
    cmpCheck s c 2 b all
    needFar s c all
    let x ← amountOf s c 1 (cmpObj s c a)
    let y ← amountOf s c 2 (cmpObj s c b)
    done (cmpCc (x.v * 10 ^ y.scale) (y.v * 10 ^ x.scale)) (if ka = 11 ∨ kb = 11 then 26 else 2)
  else if isPtr a && isPtr b then
    fwdCheck s c 1 a
    fwdCheck s c 2 b
    needFar s c (fwdRange s c a ++ fwdRange s c b)
    done (if cmpAddr s c a = cmpAddr s c b then 0 else 3) 12
  else if ka = 7 ∧ kb = 7 ∧ fld a.tag 3 0 = 1 ∧ fld b.tag 3 0 = 1 then
    done (cmpCc (fld a.pay 20 0) (fld b.pay 20 0)) 2
  else if ka = kb ∧ (ka = 0 ∨ ka = 9 ∨ (ka = 7 ∧ fld a.tag 3 0 = 0 ∧ fld b.tag 3 0 = 0)) then
    done (if a = b then 0 else 3) 2
  else if ka = 3 ∨ kb = 3 then
    let sur ← fpUnit s c 320
    .ok ⟨setCc s c 3, 2 + sur, false, sur⟩
  else
    decValid 1 a
    decValid 2 b
    done 3 2

def execCmpg (c : Nat) (ra rb : Reg) (s : State) : Out :=
  runCore s (rrRun (.cmpg c ra rb) c [ra.val, rb.val]) fun s => do
    let a ← rdG s c ra
    let b ← rdG s c rb
    let r ← genCmp c a b s
    .ok r.done

-- tags

/-- R158. -/
def execTagr (c : Nat) (rd ra : Reg) (s : State) : Out :=
  runCore s ⟨c, some false, 3, none, Tm.alu [ra.val] [rd.val], (Instr.tagr c rd ra).wf⟩ fun s => do
    let w ← rdG s c ra
    .ok (Done.of (wrG s c rd (fixN w.tag.toNat)) 1)

/-- R152: the qualifier is one of the class. -/
def qualOk (k q : Nat) : Bool :=
  match k with
  | 0 | 1 | 3 => q = 0
  | 2 | 4 | 5 | 6 | 8 | 10 | 11 => true
  | 7 => q ≤ 1
  | 9 => q ≤ 3
  | 15 => q ≤ 4
  | _ => false

/-- R152, R153: the payload fits the class and qualifier. -/
def payOk (k q : Nat) (p : Word) : Bool :=
  match k with
  | 4 | 11 => fld p 63 40 = 0 && fld p 3 0 = 0
  | 5 | 6 | 8 => fld p 63 40 = 0 && fld p 2 0 = 0
  | 10 => fld p 63 40 = 0
  | 7 =>
    if q = 0 then fld p 63 48 = 0
    else p.toNat < 0xD800 || (0xE000 ≤ p.toNat && p.toNat ≤ 0x10FFFF)
  | 9 => p = 0
  | _ => true

/-- R159; the offending tag (R351) of steps 3 and 5 is the one asked for (log entry 95). -/
def tagsBody (c : Nat) (rd ra rb : Reg) (s : State) : Except Stop Done := do
  let a ← rdG s c ra
  let b ← rdG s c rb
  let low := decide (2 ≤ (curBank s c).priv)
  let k := fld b.pay 7 4
  let q := fld b.pay 3 0
  if low && isPoison a then poisonUse a
  else if !isFix b || decide (255 < b.pay.toNat) then tagMismatch 2 b
  else if k = 12 ∨ k = 13 ∨ k = 14 then raise 7 2 b.pay.toNat
  else if low && (k = 4 || k = 5 || k = 6 || k = 8 || k = 10 || k = 11 || (k = 15 && q ≠ 0)) then
    raise 2 0 0
  else if !qualOk k q || !payOk k q a.pay then raise 7 1 b.pay.toNat
  else .ok (Done.of (wrG s c rd ⟨BitVec.ofNat 8 b.pay.toNat, a.pay⟩) 2)

def execTags (c : Nat) (rd ra rb : Reg) (s : State) : Out :=
  runCore s ⟨c, some false, 3, none, Tm.pipe [ra.val, rb.val] [rd.val], (Instr.tags c rd ra rb).wf⟩
    (tagsBody c rd ra rb)

end Sys2Proof.Machine
end

