-- ==== Sys2Proof/Machine/Strings.lean ====
section
/-! DEFINITION. The string and edit instructions (R214 to R235), with their counts (R290). -/

namespace Sys2Proof.Machine

-- registers (R220, R221)

def strStorage : StrForm → Bool
  | .reg .. => false
  | .sto .. => true

/-- Length, first address and second address registers, in the register-mode order. -/
def strRegs : StrForm → Reg × Reg × Reg
  | .reg rd ra rb => (rd, ra, rb)
  | .sto rd ra => (rd + 1, rd, ra)

/-- R220: an odd rd in storage mode, or one register in two roles. -/
def strUnd (f : StrForm) : Option Nat :=
  let r := strRegs f
  match f with
  | .reg .. => badAt (r.1 = r.2.1 || r.1 = r.2.2 || r.2.1 = r.2.2) 2
  | .sto rd _ => badAt (rd.val % 2 = 1 || r.1 = r.2.2 || r.2.1 = r.2.2) 1

def strRun (i : Instr) (c : Nat) (f : StrForm) : Run :=
  let r := strRegs f
  ⟨c, some (strStorage f), if strStorage f then 2 else 3, strUnd f,
    Tm.core [r.1.val, r.2.1.val, r.2.2.val], i.wf⟩

/-- R115, R119, R221: an address register, operand `info`. -/
def strAddr (storage write : Bool) (info : Nat) (w : TWord) : Except Stop Unit := do
  if isPoison w then poisonUse w
  else if isPtr w then
    if !storage && fld w.pay 63 40 ≠ 0 then tagMismatch info w
    else
      immutable info write w
      let _ ← inSpace info w.pay.toInt
  else if storage && isInt w then .ok ()
  else tagMismatch info w

/-- R221: the length and the two address words. The length is judged here, each address register with its operand
(R374). -/
def strIn (s : State) (c : Nat) (f : StrForm) : Except Stop (Nat × TWord × TWord) := do
  let r := strRegs f
  let l ← rdG s c r.1
  let a ← rdG s c r.2.1
  let b ← rdG s c r.2.2
  if isPoison l then poisonUse l
  else if !(isFix l || (strStorage f && isInt l)) then tagMismatch 1 l
  else .ok (l.pay.toNat, a, b)

/-- R374 steps 1 and 2 and the base's READ_BARRIER (R187) for an address register, operand `info`. -/
def strOperand (s : State) (c : Nat) (f : StrForm) (write : Bool) (info : Nat) (w : TWord) : Except Stop Unit := do
  strAddr (strStorage f) write info w
  baseBarrier s c (ptrOf (some w))

/-- The address registers of an instruction of length 0, which reads nothing. -/
def strNone (f : StrForm) (write : Bool) (a b : TWord) : Except Stop Unit := do
  strAddr (strStorage f) write 2 a
  strAddr (strStorage f) false 3 b

/-- The address of byte `i` of an operand (R118, R221). -/
def strByte (s : State) (c : Nat) (w : TWord) (i : Nat) : Nat :=
  if isPtr w then fld w.pay 39 0 + i else xbWindow s c (w.pay.toNat + i)

/-- An address register after `n` bytes. -/
def strAdv (w : TWord) (n : Nat) : TWord :=
  if isPtr w then ⟨w.tag, w.pay + BitVec.ofNat 64 n⟩ else ⟨0x10, w.pay + BitVec.ofNat 64 n⟩

/-- R221, R568: a pointer that would reach 2^40. -/
def strLimit (info : Nat) (w : TWord) (n : Nat) : Except Stop Unit :=
  if isPtr w && 2 ^ 40 ≤ fld w.pay 39 0 + n then raise 6 info (fld w.pay 39 8) else .ok ()

/-- The checks of a list of bytes (R219), in order. -/
def checkList (s : State) (c : Nat) (k : Kind) (info : Nat) : List Nat → Except Stop Unit
  | [] => .ok ()
  | a :: r => do
    (if 2 ^ 40 ≤ a then outOfSpace info a else checkBytes s c k info a 1)
    checkList s c k info r

def byteOk (s : State) (c : Nat) (k : Kind) (a : Nat) : Bool :=
  a < 2 ^ 40 && (accessFail s c k a).isNone

/-- R93 on a list of bytes. -/
def poisonList (s : State) (c : Nat) (as : List Nat) : Except Stop Unit :=
  match (as.map (wholeWord s c)).find? isPoison with
  | some w => poisonUse w
  | none => .ok ()

def wholeByte (s : State) (c a : Nat) : Byte :=
  BitVec.ofNat 8 ((wholeWord s c a).pay.toNat / 256 ^ (7 - a % 8))

def okPrefix (p : Nat → Bool) : List Nat → Nat
  | [] => 0
  | a :: r => if p a then 1 + okPrefix p r else 0

def farList (s : State) (c : Nat) (as : List Nat) : Except Stop Unit := needFar s c (as.map fun a => (a, 1))

/-- Adjacent bytes as one write each run; later bytes of a list win. -/
def groupWrites : List (Nat × Byte) → List PWrite
  | [] => []
  | (a, b) :: r =>
    match groupWrites r with
    | [] => [⟨a, [b], 0, false⟩]
    | w :: ws => if w.a = a + 1 then ⟨a, b :: w.bs, 0, false⟩ :: ws else ⟨a, [b], 0, false⟩ :: w :: ws

def setLen (s : State) (c : Nat) (f : StrForm) (n : Nat) : State := wrG s c (strRegs f).1 (fixN n)

def strCost (f : StrForm) : Nat := if strStorage f then 6 else 0

-- MOVS (R222)

/-- One-byte moves in order, on an overlay of what they have written. -/
def moveBytes (rd : Nat → Byte) : List (Nat × Nat) → List (Nat × Byte) → List (Nat × Byte)
  | [], o => o
  | (d, a) :: r, o => moveBytes rd r ((d, ((o.find? fun e => e.1 = a).map (·.2)).getD (rd a)) :: o)

/-- R222: whether an execution that begins or resumes moves descending. -/
def movsDesc (c : Nat) (f : StrForm) (s : State) : Bool :=
  let r := strRegs f
  let d0 := strByte s c (peekG s c r.2.1) 0
  let s0 := strByte s c (peekG s c r.2.2) 0
  decide (s0 < d0) && decide (d0 < s0 + (peekG s c r.1).pay.toNat)

def movsUnit (c : Nat) (f : StrForm) (desc : Bool) (j : Nat) (s : State) : Except Stop UnitOut := do
  let x ← strIn s c f
  let len := x.1
  let start := if j = 0 then 6 + strCost f else 0
  if len = 0 then do
    strNone f true x.2.1 x.2.2
    .ok ⟨s, start, true⟩
  else
    let n := min 64 len
    let off := if desc then len - n else 0
    let ix := (List.range n).map (· + off)
    let das := ix.map (strByte s c x.2.1)
    let sas := ix.map (strByte s c x.2.2)
    strOperand s c f true 2 x.2.1
    (if desc then .ok () else strLimit 2 x.2.1 n)
    checkList s c .write 2 das
    strOperand s c f false 3 x.2.2
    (if desc then .ok () else strLimit 3 x.2.2 n)
    checkList s c .read 3 sas
    farList s c sas
    poisonList s c das
    poisonList s c sas
    let ps := das.zip sas
    let w := moveBytes (wholeByte s c) (if desc then ps.reverse else ps) []
    let s1 := wholeWrites s c (groupWrites (if desc then w else w.reverse))
    let s1 := setLen s1 c f (len - n)
    let s1 := if desc then s1
      else wrG (wrG s1 c (strRegs f).2.1 (strAdv x.2.1 n)) c (strRegs f).2.2 (strAdv x.2.2 n)
    .ok ⟨s1, start + 20, decide (len = n)⟩

def execMovs (c : Nat) (f : StrForm) (units : Nat) (s : State) : Out :=
  let q := strRun (.movs c f units) c f
  runCore s q fun s =>
    let u := unitBegin s c (movsDesc c f s) []
    unitRun q units u (movsUnit c f u.desc) s

-- MOVP (R223)

def movpBody (c l1 l2 : Nat) (pad : Byte) (m1 m2 : Mem) (s : State) : Except Stop Done := do
  let far := opdFar s c ⟨2, .packed, l2, m2, .read⟩
  let e1 ← withFar (eaOf s c 1 l1 true m1) (if far.length ≤ 24 then far else [])
  checkBytes s c .write 1 e1.a l1
  let e2 ← eaOf s c 2 l2 false m2
  checkBytes s c .read 2 e2.a l2
  if 24 < (dramWords s e2.a l2).length then raise 6 0x46 (e2.a / 256)
  else
    needFar s c [(e2.a, l2)]
    poisonFree s c e1.a l1
    let bs ← wholeBytes s c e2.a l2
    let out := bs.take l1 ++ List.replicate (l1 - l2) pad
    let s1 := wholeWrite s c ⟨e1.a, out, 0, false⟩
    let s1 := setCc s1 c (if l1 = l2 then 0 else if l1 < l2 then 1 else 2)
    .ok (Done.of (applySides s1 c [e1, e2]) (stoCost [m1, m2] + 6 + rWords l1 + rWords l2))

def execMovp (c l1 l2 : Nat) (pad : Byte) (m1 m2 : Mem) (s : State) : Out :=
  runCore s ⟨c, some m1.storage, 4 + memBytes m1 + memBytes m2, specUnd (offIn m1 4) [m1, m2],
    Tm.core (memSrcs m1 ++ memSrcs m2), (Instr.movp c l1 l2 pad m1 m2).wf⟩ (movpBody c l1 l2 pad m1 m2)

-- CMPS (R224)

/-- Index of the first pair that differs or cannot be read, among the first bytes of a unit. -/
def firstDiff (eq : Nat → Nat → Bool) : List (Nat × Nat) → Nat
  | [] => 0
  | (a, b) :: r => if eq a b then 1 + firstDiff eq r else 0

def cmpsUnit (c : Nat) (f : StrForm) (j : Nat) (s : State) : Except Stop UnitOut := do
  let x ← strIn s c f
  let len := x.1
  let start := if j = 0 then 6 + strCost f else 0
  if len = 0 then do
    strNone f false x.2.1 x.2.2
    .ok ⟨setCc s c 0, start, true⟩
  else
    let n := min 64 len
    let as := (List.range n).map (strByte s c x.2.1)
    let bs := (List.range n).map (strByte s c x.2.2)
    strOperand s c f false 2 x.2.1
    let m := min (okPrefix (byteOk s c .read) as) (okPrefix (byteOk s c .read) bs)
    farList s c (as.take m ++ bs.take m)
    let same (a b : Nat) : Bool :=
      !isPoison (wholeWord s c a) && !isPoison (wholeWord s c b) && wholeByte s c a == wholeByte s c b
    let k := firstDiff same ((as.take m).zip (bs.take m))
    strLimit 2 x.2.1 k
    checkList s c .read 2 (as.take (k + 1))
    strOperand s c f false 3 x.2.2
    strLimit 3 x.2.2 k
    checkList s c .read 3 (bs.take (k + 1))
    poisonList s c (as.take (k + 1))
    poisonList s c (bs.take (k + 1))
    let s1 := setLen s c f (len - k)
    let s1 := wrG (wrG s1 c (strRegs f).2.1 (strAdv x.2.1 k)) c (strRegs f).2.2 (strAdv x.2.2 k)
    if k < n then
      let cc := if (wholeByte s c (as.getD k 0)).toNat < (wholeByte s c (bs.getD k 0)).toNat then 1 else 2
      .ok ⟨setCc s1 c cc, start + 20, true⟩
    else if len = n then .ok ⟨setCc s1 c 0, start + 20, true⟩
    else .ok ⟨s1, start + 20, false⟩

def execCmps (c : Nat) (f : StrForm) (units : Nat) (s : State) : Out :=
  let q := strRun (.cmps c f units) c f
  runCore s q fun s => unitRun q units (unitBegin s c false []) (cmpsUnit c f) s

-- TRNS and SCAN (R225, R226)

/-- R284: a table byte outside cell memory. -/
def tableNear (s : State) (c a : Nat) : Bool :=
  match locOf s.part (cellOf c) a with
  | .cell .. => true
  | .dram | .ctl | .none => false

/-- The translation of operand bytes one by one; each table byte is read after every earlier operand byte
has been written. Stops before a byte that cannot be read or is POISON, or at the first table byte that fails. -/
def trnsBytes (s : State) (c : Nat) (t : TWord) : List Nat → List (Nat × Byte) → List Nat →
    List (Nat × Byte) × List Nat
  | [], o, ts => (o, ts)
  | a :: r, o, ts =>
    let ta := strByte s c t (wholeByte s c a).toNat
    if isPoison (wholeWord s c a) then (o, ts)
    else if byteOk s c .read ta && tableNear s c ta then
      let b := ((o.find? fun e => physOf (cellOf c) e.1 = physOf (cellOf c) ta).map (·.2)).getD (wholeByte s c ta)
      trnsBytes s c t r ((a, b) :: o) (ts ++ [ta])
    else (o, ts ++ [ta])

/-- The checks of table bytes: in cell memory, readable, not POISON. -/
def tableCheck (s : State) (c : Nat) (ts : List Nat) : Except Stop Unit :=
  match ts.find? fun a => !tableNear s c a with
  | some a => raise 6 0x43 (a % 2 ^ 40 / 256)
  | none => .ok ()

def trnsUnit (c : Nat) (f : StrForm) (j : Nat) (s : State) : Except Stop UnitOut := do
  let x ← strIn s c f
  let len := x.1
  let start := if j = 0 then 6 + strCost f else 0
  if len = 0 then do
    strNone f true x.2.1 x.2.2
    .ok ⟨s, start, true⟩
  else
    let n := min 64 len
    let as := (List.range n).map (strByte s c x.2.1)
    strOperand s c f true 2 x.2.1
    let m := okPrefix (byteOk s c .both) as
    farList s c (as.take m)
    let w := trnsBytes s c x.2.2 (as.take m) [] []
    strLimit 2 x.2.1 n
    checkList s c .both 2 as
    strOperand s c f false 3 x.2.2
    tableCheck s c w.2
    checkList s c .read 3 w.2
    poisonList s c as
    poisonList s c w.2
    let s1 := wholeWrites s c (groupWrites w.1.reverse)
    let s1 := setLen s1 c f (len - n)
    let s1 := wrG s1 c (strRegs f).2.1 (strAdv x.2.1 n)
    .ok ⟨s1, start + 84, decide (len = n)⟩

def execTrns (c : Nat) (f : StrForm) (units : Nat) (s : State) : Out :=
  let q := strRun (.trns c f units) c f
  runCore s q fun s => unitRun q units (unitBegin s c false []) (trnsUnit c f) s

/-- The bytes scanned without a stop, and the table bytes read. -/
def scanBytes (s : State) (c : Nat) (t : TWord) : List Nat → Nat → List Nat → Nat × List Nat
  | [], k, ts => (k, ts)
  | a :: r, k, ts =>
    let ta := strByte s c t (wholeByte s c a).toNat
    if !isPoison (wholeWord s c a) && byteOk s c .read ta && tableNear s c ta &&
       !isPoison (wholeWord s c ta) && wholeByte s c ta = 0 then scanBytes s c t r (k + 1) (ts ++ [ta])
    else (k, ts ++ [ta])

def scanUnit (c : Nat) (f : StrForm) (j : Nat) (s : State) : Except Stop UnitOut := do
  let x ← strIn s c f
  let len := x.1
  let start := if j = 0 then 6 + strCost f else 0
  if len = 0 then do
    strNone f false x.2.1 x.2.2
    .ok ⟨setCc s c 0, start, true⟩
  else
    let n := min 64 len
    let as := (List.range n).map (strByte s c x.2.1)
    strOperand s c f false 2 x.2.1
    let m := okPrefix (byteOk s c .read) as
    farList s c (as.take m)
    let w := scanBytes s c x.2.2 (as.take m) 0 []
    let k := w.1
    -- a POISON operand byte takes no table byte
    let ts := if k < m && isPoison (wholeWord s c (as.getD k 0)) then w.2.dropLast else w.2
    strLimit 2 x.2.1 k
    checkList s c .read 2 (as.take (k + 1))
    strOperand s c f false 3 x.2.2
    tableCheck s c ts
    checkList s c .read 3 ts
    poisonList s c (as.take (k + 1))
    poisonList s c ts
    let s1 := setLen s c f (len - k)
    let s1 := wrG s1 c (strRegs f).2.1 (strAdv x.2.1 k)
    if k < n then
      let t := wholeByte s c (ts.getLastD 0)
      let s1 := setBank s1 c { curBank s1 c with ct := t.setWidth 64 }
      .ok ⟨setCc s1 c 1, start + 75, true⟩
    else if len = n then .ok ⟨setCc s1 c 0, start + 75, true⟩
    else .ok ⟨s1, start + 75, false⟩

def execScan (c : Nat) (f : StrForm) (units : Nat) (s : State) : Out :=
  let q := strRun (.scan c f units) c f
  runCore s q fun s => unitRun q units (unitBegin s c false []) (scanUnit c f) s

-- EDIT and EDMK (R230 to R235)

/-- The variables of the pseudocode of R231, with the bytes written in this unit. -/
structure Ed where
  p : Nat
  nb : Int
  fs : Nat
  flpos : Nat
  mark : Nat
  nlp : Bool
  neg : Bool
  ovf : Bool
  sig : Bool
  cc : Nat
  /-- fill, flt, pnt and grp, as read when the execution began. -/
  hdr : List Byte
  pic : List Byte
  wr : List (Nat × Byte)

/-- Nibble `i` of the source. -/
def nibAt (src : List Byte) (i : Nat) : Nat :=
  let b := (src.getD (i / 2) 0).toNat
  if i % 2 = 0 then b / 16 else b % 16

/-- The first odd nibble at or after byte `i` that is a sign code, as a nibble index. -/
def signAt (src : List Byte) : Nat → Nat → Option Nat
  | 0, _ => none
  | fuel + 1, i =>
    match src[i]? with
    | none => none
    | some b => if signOk (b.toNat % 16) then some (2 * i + 1) else signAt src fuel (i + 1)

def isDigitCode (b : Byte) : Bool := b = 0x10 || b = 0x11 || b = 0x12

/-- Digit positions from picture byte `q` to the next FE or the end. -/
def digitCount : List Byte → Nat
  | [] => 0
  | b :: r => if b = 0x17 then 0 else b2n (isDigitCode b) + digitCount r

/-- align() of R231: first nibble, sign, and whether the field overflows. -/
def edAlign (src pic : List Byte) (fs q : Nat) : Option (Int × Bool × Bool) :=
  (signAt src (src.length + 1) (fs / 2)).map fun (g : Nat) =>
    let d : Nat := digitCount (pic.drop q)
    ((Int.ofNat g - Int.ofNat d), signNeg (nibAt src g),
      (List.range (g - d - fs)).any fun i => decide (nibAt src (fs + i) ≠ 0))

def edPut (e : Ed) (i : Nat) (b : Byte) : Ed := { e with pic := e.pic.set i b, wr := (i, b) :: e.wr }

/-- turn_on() of R231. DESIGN CHOICE (log entry 142): resumed with CT FLPOS 1 to 3, which R218 lets pass, it writes the header
byte as R231's pseudocode has it, though R230 says that header bytes never change. -/
def edTurnOn (e : Ed) (flt : Byte) (q : Nat) : Ed :=
  let q' := if e.flpos ≠ 0 then e.flpos else q
  let e := if e.flpos ≠ 0 then edPut e e.flpos flt else e
  { e with sig := true, flpos := 0, mark := if e.mark = 0 then q' else e.mark }

/-- One picture byte (R231). -/
def edByte (src : List Byte) (e : Ed) : Option Ed :=
  let fill := e.hdr.getD 0 0
  let flt := e.hdr.getD 1 0
  let b := e.pic.getD e.p 0
  let adv (e : Ed) : Option Ed := some { e with p := e.p + 1 }
  if e.nlp && (b.toNat < 0x10 || 0x17 < b.toNat) then
    adv (if e.neg then e else edPut e e.p fill)
  else if isDigitCode b then
    let d := if e.nb < e.fs then 0 else nibAt src e.nb.toNat
    let e := { e with nlp := false, nb := e.nb + 1
                      cc := if d = 0 then e.cc else if e.neg then 1 else if e.cc = 0 then 2 else e.cc }
    if e.sig || d ≠ 0 || b = 0x11 then
      let e := if e.sig then e else edTurnOn e flt e.p
      adv (edPut e e.p (BitVec.ofNat 8 (0x30 + d)))
    else
      let e := edPut e e.p fill
      adv (if b = 0x12 then { e with flpos := e.p } else e)
  else if b = 0x13 then
    let e := { e with nlp := false }
    let e := if e.sig then e else edTurnOn e flt e.p
    adv (edPut e e.p (e.hdr.getD 2 0))
  else if b = 0x14 then
    adv (edPut { e with nlp := false } e.p (if e.sig then e.hdr.getD 3 0 else fill))
  else if b = 0x15 then
    adv (edPut { e with nlp := false } e.p (if e.neg then 0x2D else fill))
  else if b = 0x16 then adv { edPut e e.p fill with nlp := true }
  else if b = 0x17 then
    let e := { edPut e e.p fill with nlp := false, sig := false, flpos := 0, fs := (e.nb + 1).toNat }
    match edAlign src e.pic e.fs (e.p + 1) with
    | none => none
    | some (nb, neg, o) => adv { e with nb := nb, neg := neg, ovf := e.ovf || o }
  else adv e

/-- The source nibble that the next picture byte takes (R231). -/
def edTakes (e : Ed) : List Nat := if isDigitCode (e.pic.getD e.p 0) && e.fs ≤ e.nb then [e.nb.toNat] else []

/-- Picture bytes up to the end of the unit: the variables where it ends, the source nibbles taken on the way, and
whether every field begun found its sign. -/
def edUnitBytes (src : List Byte) (l1 : Nat) : Nat → Ed → List Nat → Ed × List Nat × Bool
  | 0, e, ns => (e, ns, true)
  | fuel + 1, e, ns =>
    if l1 ≤ e.p then (e, ns, true)
    else
      let ns := ns ++ edTakes e
      match edByte src e with
      | none => (e, ns, false)
      | some e => if e.p % 16 = 0 then (e, ns, true) else edUnitBytes src l1 fuel e ns

/-- Progress held in CT, PS.SIG and PS.CC (R233). -/
def edLoad (s : State) (c : Nat) (hdr pic : List Byte) : Ed :=
  let b := curBank s c
  { p := fld b.ct 15 0
    nb := (fld b.ct 27 16 : Int) - 256
    fs := 2 * fld b.ct 63 56
    flpos := fld b.ct 55 48
    mark := fld b.ct 47 40
    nlp := bit b.ct 30
    neg := bit b.ct 29
    ovf := bit b.ct 28
    sig := b.sig
    cc := b.cc
    hdr := hdr
    pic := pic
    wr := [] }

/-- R233: the CT of a unit boundary. -/
def edCt (e : Ed) : Word :=
  BitVec.ofNat 64 (e.fs / 2 % 256 * 2 ^ 56 + e.flpos % 256 * 2 ^ 48 + e.mark % 256 * 2 ^ 40 +
    b2n e.nlp * 2 ^ 30 + b2n e.neg * 2 ^ 29 + b2n e.ovf * 2 ^ 28 +
    (e.nb + 256).toNat % 4096 * 2 ^ 16 + e.p % 65536)

/-- R218. -/
def edInconsistent (ct : Word) (l1 l2 : Nat) : Bool :=
  let p := fld ct 15 0
  fld ct 39 31 ≠ 0 || p = 0 || p % 16 ≠ 0 || l1 ≤ p || 256 + 2 * l2 < fld ct 27 16 ||
  l2 ≤ fld ct 63 56 || p ≤ fld ct 55 48 || p ≤ fld ct 47 40

/-- The prescan of the source (R232): from byte `i`, the bytes touched and the DETAIL of an invalid one;
`bad` names bytes that cannot be read. -/
def edWalk (rd : Nat → Byte) (bad : Nat → Bool) (l2 : Nat) : Nat → Nat → Nat → Nat × Option Nat
  | 0, i, _ => (i, none)
  | fuel + 1, i, fields =>
    if fields = 0 then (i, none)
    else if l2 ≤ i then (i, some l2)
    else if bad i then (i + 1, none)
    else
      let b := (rd i).toNat
      if 9 < b / 16 then (i + 1, some i)
      else edWalk rd bad l2 fuel (i + 1) (if signOk (b % 16) then fields - 1 else fields)

/-- The fields of a picture from byte `p` on, as the picture bytes at which they begin; the header alone
has none. -/
def edFields (pic : List Byte) (p : Nat) : List Nat :=
  if pic.length ≤ 4 then []
  else p :: ((List.range pic.length).filter fun i => p ≤ i && pic.getD i 0 = 0x17).map (· + 1)

/-- R232: whether some field to be judged overflows. -/
def edOverflows (src pic : List Byte) : List Nat → Nat → Bool → Bool
  | [], _, _ => false
  | q :: r, fs, judge =>
    match edAlign src pic fs q, signAt src (src.length + 1) (fs / 2) with
    | some (_, _, o), some g => (judge && o) || edOverflows src pic r (g + 1) true
    | _, _ => false

/-- R232: the picture bytes that a unit touches, with the kind of each access: the header and the bytes after the
unit in the first unit of an execution (`first`), the unit's own bytes `p` to `ue` - 1, and those it writes. -/
def edTouch (l1 p ue : Nat) (first : Bool) (wr : List Nat) : List (Nat × Kind) :=
  (List.range l1).filterMap fun i =>
    let rd := (first && (i < 4 || ue ≤ i)) || (p ≤ i && i < ue)
    match rd, wr.contains i with
    | true, true => some (i, .both)
    | true, false => some (i, .read)
    | false, true => some (i, .write)
    | false, false => none

/-- The checks of the picture bytes at `a` in address order. -/
def edCheck (s : State) (c a : Nat) : List (Nat × Kind) → Except Stop Unit
  | [] => .ok ()
  | (i, k) :: r => do
    checkBytes s c k 1 (a + i) 1
    edCheck s c a r

/-- R276, R374: the second operand of EDIT while its address is not known: its indirect word is awaited, with the picture's
bytes `touch` that the unit reads; an address that is refused is refused after them. -/
def edSource (s : State) (c a : Nat) (touch : List (Nat × Kind)) (f2 : Except Stop Ea) : Except Stop Ea :=
  match f2 with
  | .ok e => .ok e
  | .error (.far ws) => .error (.far (ws ++ farMiss s c (touch.map fun x => (a + x.1, 1))).eraseDups)
  | .error x => do
    edCheck s c a touch
    .error x

/-- One unit of EDIT (mark false) or EDMK, of an execution that began with the header `hdr` and whose `j`-th unit,
from 0, it is. -/
def editUnit (c : Nat) (mk : Bool) (l1 l2 : Nat) (m1 m2 : Mem) (hdr : List Byte) (j : Nat) (s : State) :
    Except Stop UnitOut := do
  let b := curBank s c
  let resumed := j ≠ 0 || b.uip
  let first := j = 0
  if resumed && edInconsistent b.ct l1 l2 then raise 0x0B 5 0
  else
    let e1 ← withFar (eaOf s c 1 l1 true m1) (farOf (eaOf s c 2 l2 false m2))
    let p := if resumed then fld b.ct 15 0 else 4
    let fs := if resumed then 2 * fld b.ct 63 56 else 0
    let ue := min l1 (p / 16 * 16 + 16)
    let e2 ← edSource s c e1.a (edTouch l1 p ue first []) (eaOf s c 2 l2 false m2)
    let a2 := e2.a
    let pic := (List.range l1).map fun i => wholeByte s c (e1.a + i)
    let src := (List.range l2).map fun i => wholeByte s c (a2 + i)
    let fields := edFields pic p
    let w := edWalk (fun i => src.getD i 0)
      (fun i => !byteOk s c .read (a2 + i) || isPoison (wholeWord s c (a2 + i)))
      l2 (l2 + fields.length + 1) (fs / 2) fields.length
    let z : Ed := ⟨4, 0, 0, 0, 0, false, false, false, false, 0, hdr, pic, []⟩
    let e0 : Ed × Bool :=
      if resumed then (edLoad s c hdr pic, true)
      else if fields = [] then (z, true)
      else match edAlign src pic 0 4 with
        | some r => ({ z with nb := r.1, neg := r.2.1, ovf := r.2.2 }, true)
        | none => (z, false)
    let r := edUnitBytes src l1 17 e0.1 []
    let e := r.1
    let took := (r.2.1.map (· / 2)).eraseDups
    -- R374: the picture's bytes, then the source bytes
    let touch := edTouch l1 p ue first (e.wr.map (·.1))
    edCheck s c e1.a touch
    let scan := if first then (List.range (w.1 - fs / 2)).map (· + fs / 2) else []
    let reads := (scan ++ took).map (· + e2.a)
    checkList s c .read 2 reads
    farList s c (touch.map (fun x => e1.a + x.1) ++ reads)
    poisonList s c (touch.map fun x => e1.a + x.1)
    poisonList s c reads
    (if !first then .ok () else
      match w.2 with
      | some d => raise 0x0B 2 d
      | none => if edOverflows src pic fields fs (!resumed) && teBit s c 3 then raise 0x0C 1 0 else .ok ())
    match r.2.1.find? fun i => decide (9 < nibAt src i) with
    | some i => raise 0x0B 2 (i / 2)
    | none =>
      if !(e0.2 && r.2.2) then raise 0x0B 2 l2
      else
        let cost := (if !first then 0 else (if resumed then 12 else 8) + stoCost [m1, m2]) + 44
        let at' := (List.range l1).filterMap fun i => (e.wr.find? fun x => x.1 = i).map fun x => (e1.a + i, x.2)
        let s1 := wholeWrites s c (groupWrites at')
        if l1 ≤ e.p then
          let s1 := if e.ovf then setFl s1 c 2 else s1
          let s1 := setCc s1 c (if e.ovf then 3 else e.cc)
          let s1 := setBank s1 c ({ curBank s1 c with ct := if mk then BitVec.ofNat 64 e.mark else 0 }.setSig false)
          .ok ⟨applySides s1 c [e1, e2], cost, true⟩
        else
          let s1 := setCc s1 c e.cc
          let s1 := setBank s1 c ({ curBank s1 c with ct := edCt e }.setSig e.sig)
          .ok ⟨s1, cost, false⟩

/-- R235: the header as an execution that begins or resumes reads it. -/
def edHeader (s : State) (c l1 : Nat) (m1 : Mem) : List Byte :=
  match eaOf s c 1 l1 true m1 with
  | .ok e => (List.range 4).map fun i => wholeByte s c (e.a + i)
  | .error _ => []

/-- EDIT and EDMK. -/
def editBody (q : Run) (mk : Bool) (l1 l2 : Nat) (m1 m2 : Mem) (units : Nat) (s : State) : Except Stop Done :=
  let u := unitBegin s q.c false (edHeader s q.c l1 m1)
  unitRun q units u (editUnit q.c mk l1 l2 m1 m2 u.hdr) s

/-- R230: L1 of 1 to 3 is reserved. -/
def editRun (i : Instr) (c l1 : Nat) (m1 m2 : Mem) : Run :=
  ⟨c, some m1.storage, 3 + memBytes m1 + memBytes m2, mmUnd (l1 < 4) false m1 m2,
    Tm.core (memSrcs m1 ++ memSrcs m2), i.wf⟩

def execEdit (c l1 l2 : Nat) (m1 m2 : Mem) (units : Nat) (s : State) : Out :=
  let q := editRun (.edit c l1 l2 m1 m2 units) c l1 m1 m2
  runCore s q (editBody q false l1 l2 m1 m2 units)
def execEdmk (c l1 l2 : Nat) (m1 m2 : Mem) (units : Nat) (s : State) : Out :=
  let q := editRun (.edmk c l1 l2 m1 m2 units) c l1 m1 m2
  runCore s q (editBody q true l1 l2 m1 m2 units)

end Sys2Proof.Machine
end

