-- ==== Sys2Proof/Machine/Repeat.lean ====
section
/-! DEFINITION. Repeated instructions (R133 to R135, R283, R284, R291) and pair words (R144 to R146,
R285). -/

namespace Sys2Proof.Machine

-- repeated instructions

/-- The memory operands of a repeated instruction, with length and kind of access. -/
def repMems : RepOp → List (Mem × Nat)
  | .ld z _ m | .st z _ m => [(m, 2 ^ z.val)]
  | .ldf _ m | .stf _ m => [(m, 8)]
  | .lda _ _ l m | .sta _ _ l m => [(m, l)]
  | .dec _ (.mm l1 l2 m1 m2) => [(m1, l1), (m2, l2)]
  | .dec _ (.mmm l1 l2 l3 m1 m2 m3) => [(m1, l1), (m2, l2), (m3, l3)]
  | .dec _ (.aa ..) => []
  | .dsrd l _ _ m => [(m, l)]
  | .conv _ l1 l2 m1 m2 => [(m1, l1), (m2, l2)]
  | .movp l1 l2 _ m1 m2 => [(m1, l1), (m2, l2)]
  | .alu _ _ m | .fp _ _ m => [(.sto m, 8)]
  | .other _ => []

/-- The first operand is written (R117). -/
def repWrites : RepOp → Bool
  | .st .. | .stf .. | .sta .. | .dsrd .. | .conv .. | .movp .. => true
  | .dec op _ => op ≠ .cmp
  | _ => false

/-- R363: how a repeated instruction accesses its operand `i`. -/
def repKind (op : RepOp) (i : Nat) : Kind :=
  if i ≠ 1 then .read
  else match op with
    | .dec o (.mm ..) => if o = .cmp then .read else .both
    | .dsrd .. => .both
    | _ => if repWrites op then .write else .read

/-- R133: an indexed register-mode operand, or one with post-increment or pre-decrement. -/
def isIndexed : Mem → Bool
  | .reg (.ptrX ..) | .reg (.shortX ..) | .reg (.longX ..) => true
  | .reg _ => false
  | .sto m => m.am = .postInc || m.am = .preDec

/-- Offset of the first specifier, without the repeat prefix. -/
def repSpecAt : RepOp → Nat
  | .lda _ _ _ m | .sta _ _ _ m => offIn m 3
  | .dsrd _ _ _ m => offIn m 4
  | .movp _ _ _ m _ => offIn m 4
  | .dec _ (.mm _ _ m _) | .conv _ _ _ m _ => offIn m 3
  | .dec _ _ => 3
  | .ld _ _ m | .st _ _ m | .ldf _ m | .stf _ m => offIn m 2
  | .alu .. | .fp .. => 2
  | .other _ => 0

/-- Offset of the last specifier from that of the first. -/
def lastSpec (o : Nat) : List (Mem × Nat) → Nat
  | [] => o
  | [_] => o
  | m :: r => lastSpec (o + memBytes m.1 - b2n m.1.isLong) r

/-- Bytes of the instruction under the prefix. -/
def repLen (op : RepOp) : Nat :=
  match op with
  | .other n => n
  | _ => repSpecAt op + ((repMems op).map fun m => memBytes m.1).sum - b2n ((repMems op).any fun m => m.1.isLong)

/-- The encoding of the instruction alone. -/
def repInner : RepOp → Option Nat
  | .ld _ _ m | .st _ _ m | .ldf _ m | .stf _ m => memUnd 2 m
  | .lda _ f l m | .sta _ f l m => amUnd f l m
  | .dec op f => decUnd op f
  | .dsrd l sh rnd m => dsrdUnd l sh rnd m
  | .conv op l1 l2 m1 m2 => cvUnd op l1 l2 m1 m2
  | .movp _ _ _ m1 m2 => specUnd (offIn m1 4) [m1, m2]
  | .alu op rd m => if op = .div && rd.val % 2 = 1 then some 1 else memUnd 2 (.sto m)
  | .fp _ _ m => memUnd 2 (.sto m)
  | .other _ => some 0

/-- R127, R133: offset, counted from the prefix, of the byte that makes a repeated instruction
undefined. The length of a long DMUL or DDIV already does, whatever the others make of it. -/
def repUnd (op : RepOp) : Option Nat :=
  match op with
  | .other _ | .dec _ (.aa ..) => some 1
  | .dec o (.mmm l1 _ _ m _ _) =>
    if !m.storage then some 1 else if 17 ≤ l1 && (o = .mul || o = .div) then some 2 else repBody op
  | .movp _ _ _ m _ => if m.isLong then some 2 else repBody op
  | _ => repBody op
where
  /-- The same for the instructions the opcode map marks repeatable. -/
  repBody (op : RepOp) : Option Nat :=
    match (repInner op) with
    | some o => some (o + 1)
    | none =>
      if 15 < 1 + repLen op then some (lastSpec (repSpecAt op) (repMems op) + 1)
      else if (repMems op).any fun m => isIndexed m.1 then none
      else some (lastSpec (repSpecAt op) (repMems op) + 1)

/-- R134: index registers, each once. -/
def indexRegs (op : RepOp) : List Reg :=
  ((repMems op).filterMap fun m =>
    match m.1 with
    | .reg (.ptrX _ _ x _) | .reg (.shortX _ x _) | .reg (.longX _ x _) => some x
    | _ => none).eraseDups

/-- LD1 to LD8 as a whole-core iteration. -/
def repLoad (c size : Nat) (rd : Reg) (m : Mem) (s : State) : Except Stop Done := do
  let e ← eaOf s c 1 size false m
  checkBytes s c .read 1 e.a size
  needFar s c [(e.a, size)]
  let w ← loadWord s c size e.a
  .ok (Done.of (applySides (wrG s c rd w) c [e]) (loadCount m e.a size))

/-- ST1 to ST8 as a whole-core iteration. -/
def repStore (c size : Nat) (rd : Reg) (m : Mem) (s : State) : Except Stop Done := do
  let v ← rdG s c rd
  let e ← eaOf s c 1 size true m
  storeReg size e.a v
  checkBytes s c .write 1 e.a size
  (if size = 8 ∧ e.a % 8 = 0 then .ok () else needFar s c [(e.a, size)])
  let o ← storeOut s c size v e.a e.src
  let s1 := if isCtl o.w.a then ctlStore s o.w.a o.w.bs o.w.tag else cardMark (wholeWrite s c o.w) c o.card
  .ok (Done.of (applySides s1 c [e]) (storeCount m e.a size))

/-- LDF as a whole-core iteration. -/
def repLdf (c : Nat) (fd : Reg) (m : Mem) (s : State) : Except Stop Done :=
  fpRun s c 200 (ldfCount s c m) do
    let e ← eaOf s c 1 8 false m
    checkBytes s c .read 1 e.a 8
    needFar s c [(e.a, 8)]
    let v ← loadFlt s c e.a
    .ok (Done.of (applySides (wrF s c fd v) c [e]) (loadCount m e.a 8))

/-- STF as a whole-core iteration. -/
def repStf (c : Nat) (fd : Reg) (m : Mem) (s : State) : Except Stop Done :=
  let cnt := if m.storage then 5 + memCost m else 1
  fpRun s c 200 cnt do
    let v ← rdF s c fd
    let e ← eaOf s c 1 8 true m
    aligned 1 e.a
    checkBytes s c .write 1 e.a 8
    let w : PWrite := ⟨e.a, wordBytes v, 0x30, false⟩
    let s1 := if isCtl e.a then ctlStore s e.a w.bs w.tag else wholeWrite s c w
    .ok (Done.of (applySides s1 c [e]) cnt)

/-- Counts of the SX forms (R292). -/
def aluSx : AluOp → Nat
  | .mul => 9
  | .div => 42
  | _ => 6

def fpSx : FOp → Nat
  | .mul => 9
  | .div => 26
  | .cmp => 6
  | _ => 8

def fpSur : FOp → Nat
  | .mul => 720
  | .div => 2300
  | .cmp => 300
  | _ => 560

/-- The body of one iteration. -/
def repBodyOf (c : Nat) (op : RepOp) (s : State) : Except Stop Done :=
  match op with
  | .ld z rd m => repLoad c (2 ^ z.val) rd m s
  | .st z rd m => repStore c (2 ^ z.val) rd m s
  | .ldf fd m => repLdf c fd m s
  | .stf fd m => repStf c fd m s
  | .lda a f l m => ldaBody c a f l m s
  | .sta a f l m => staBody c a f l m s
  | .dec o f => decBody c o f s
  | .dsrd l sh rnd m => dsrdBody c l sh rnd m s
  | .conv o l1 l2 m1 m2 => cvBody c o l1 l2 m1 m2 s
  | .movp l1 l2 pad m1 m2 => movpBody c l1 l2 pad m1 m2 s
  | .alu o rd m =>
    let f := AluForm.sx rd m
    let k := aluSx o + memCost (.sto m)
    match o with
    | .add => intBody c .add f k s
    | .sub => intBody c .sub f k s
    | .mul => intBody c .mul f k s
    | .and => intBody c .and f k s
    | .or => intBody c .or f k s
    | .xor => intBody c .xor f k s
    | .div => divBody c f k s
    | .cmp => cmpBody c f k s
  | .fp .cmp fd m => fcmpBody c (.sx fd m) s
  | .fp o fd m => fBody c o (fpSur o) (.sx fd m) (fpSx o + memCost (.sto m)) s
  | .other _ => raise 1 0 1

/-- R283: the largest cell-memory count of an iteration. -/
def repMax (s : State) (op : RepOp) : Nat :=
  let sur := fun k => if hasFp s then 0 else k
  match op with
  | .ld _ _ m => if m.storage then 5 + memCost m else 4
  | .st z _ m => if m.storage then 5 + memCost m else if z.val = 3 then 3 else 2
  | .ldf _ m => (if m.storage then 5 + memCost m else 4) + sur 200
  | .stf _ m => (if m.storage then 5 + memCost m else 1) + sur 200
  | .lda _ f l m | .sta _ f l m => amCount f l m
  | .dec o f => decCount o f
  | .dsrd l _ _ m => stoCost [m] + 8 + 2 * rWords l + 2 * qP l
  | .conv o l1 l2 m1 m2 =>
    stoCost [m1, m2] + 8 + rWords l1 + rWords l2 + 2 * max (qOf (cvFmts o).1 l1) (qOf (cvFmts o).2 l2)
  | .movp l1 l2 _ m1 m2 => stoCost [m1, m2] + 6 + rWords l1 + rWords l2
  | .alu o _ m => aluSx o + memCost (.sto m)
  | .fp o _ m => fpSx o + memCost (.sto m) + sur (fpSur o)
  | .other _ => 0

/-- R134 steps 4 and 5: the indexes advance and CT decreases. An index keeps FIX, a repeated load into it included (log
entry 119). -/
def repAdvance (s : State) (c : Nat) (op : RepOp) : State :=
  let s := (indexRegs op).foldl (fun s r => wrG s c r (fix ((peekG s c r).pay + 1))) s
  let b := curBank s c
  setBank s c { b with ct := b.ct - 1 }

/-- What one iteration leaves: the state after it, its c + 1 cycles, whether it used the FP unit, and the cycles of
emulation among them. -/
structure RepDone where
  s : State
  cnt : Nat
  fp : Bool
  emu : Nat

def repOne (c : Nat) (op : RepOp) (s : State) : Except Stop RepDone := do
  let d ← repBodyOf c op s
  .ok ⟨endEmu (clearFrb (repAdvance d.s c op) c) c none, d.cnt + 1, d.fp, d.emu⟩

/-- The instruction stops between iterations and stands at its own address. -/
def repStop (s : State) (c cnt : Nat) (fp : Bool) : Except Stop Done :=
  .ok { Done.of s cnt with next := some (curBank s c).ia, fp := fp }

/-- REPI: an event is taken after `fuel` iterations, or after the iteration in which the budget counter
reached zero; a later iteration's far words make it stop for their pre-read (R291). In an emulated iteration the
event may be taken at a sampling point of the emulation, and the iteration is undone (R268), whether it would raise an
exception or not. -/
def repiLoop (c : Nat) (op : RepOp) (left : Option Nat) : Nat → Bool → Nat → Bool → State → Except Stop Done
  | 0, _, cum, fp, s => if (curBank s c).ct = 0 then .ok { Done.of s (cum + 2) with fp := fp } else repStop s c (cum + 2) fp
  | fuel + 1, first, cum, fp, s =>
    if (curBank s c).ct = 0 then .ok { Done.of s (cum + 2) with fp := fp }
    else if !first && (match left with | some b => decide (b ≤ cum + 2) | none => false) then repStop s c (cum + 2) fp
    else match repOne c op s with
      | .ok o =>
        (match emuCut (left.map (· - cum)) o.emu with
         | some u => repStop (setEmu s c (o.emu - u)) c (cum + u) fp
         | none => repiLoop c op left fuel false (cum + o.cnt) (fp || o.fp) o.s)
      | .error (.exc e) =>
        if first then .error (.exc e)
        else (match emuCut (left.map (· - cum)) e.emu with
          | some u => repStop (setEmu s c (e.emu - u)) c (cum + u) fp
          | none => .error (.part s cum { e with fp := fp || e.fp }))
      | .error (.far ws) => if first then .error (.far ws) else repStop s c cum fp
      | .error x => .error x

/-- R284: an operand byte outside cell memory. -/
def repuPlace (s : State) (c : Nat) (a : Nat) : Nat → Except Stop Unit
  | 0 => .ok ()
  | n + 1 =>
    match locOf s.part (cellOf c) a with
    | .cell .. => repuPlace s c (a + 1) n
    | _ => raise 6 0x44 (a / 256 % 2 ^ 32)

/-- R284 over the operands of an iteration; an operand passes the checks of R374 before the next one's address is
formed. -/
def repuCheck (s : State) (c : Nat) (op : RepOp) : Nat → List (Mem × Nat) → Except Stop Unit
  | _, [] => .ok ()
  | i, (m, l) :: r =>
    match eaOf s c i l (repWrites op && i = 1) m with
    | .ok e => do
      repuPlace s c e.a l
      (if r = [] then .ok () else checkBytes s c (repKind op i) i e.a l)
      repuCheck s c op (i + 1) r
    | .error (.far ws) => raise 6 0x44 (ws.headD 0 * 8 / 256)
    | .error x => .error x

/-- REPU: no event until it completes. -/
def repuLoop (c : Nat) (op : RepOp) : Nat → Bool → Nat → Bool → State → Except Stop Done
  | 0, _, cum, fp, s => .ok { Done.of s (cum + 2) with fp := fp }
  | fuel + 1, first, cum, fp, s =>
    if (curBank s c).ct = 0 then .ok { Done.of s (cum + 2) with fp := fp }
    else match (do
        repuCheck s c op 1 (repMems op)
        repOne c op s) with
      | .ok o => repuLoop c op fuel false (cum + o.cnt) (fp || o.fp) o.s
      | .error (.exc e) => if first then .error (.exc e) else .error (.part s cum { e with fp := fp || e.fp })
      | .error x => .error x

/-- R128: UNIT_ABSENT comes before the count. -/
def repUnit (s : State) (c : Nat) (op : RepOp) : Except Stop Unit :=
  match op with
  | .ldf .. | .stf .. | .fp .. => (fpUnit s c 0).map fun _ => ()
  | _ => .ok ()

/-- R272: the registers that a repeated instruction reads and no address depends on: G by number, F from 32 on. -/
def repData : RepOp → List Nat
  | .st _ rd _ | .alu _ rd _ => [rd.val]
  | .stf fd _ | .fp _ fd _ => [32 + fd.val]
  | _ => []

/-- The run of a repeated instruction, with the registers that its specifiers and its operation read. -/
def repRun (i : Instr) (c : Nat) (op : RepOp) : Run :=
  let mode := match op with
    | .other _ | .dec _ (.aa ..) => none
    | _ => (repMems op).head?.map fun m => m.1.storage
  ⟨c, mode, 1 + repLen op, repUnd op, Tm.core ((repMems op).flatMap fun m => memSrcs m.1) (repData op), i.wf⟩

def repiBody (c : Nat) (op : RepOp) (iters : Nat) (s : State) : Except Stop Done := do
  repUnit s c op
  repiLoop c op (eventAfter s c (startOf s (repRun (.repi c op iters) c op))) (max 1 iters) true 0 false s

def execRepi (c : Nat) (op : RepOp) (iters : Nat) (s : State) : Out :=
  runCore s (repRun (.repi c op iters) c op) (repiBody c op iters)

/-- R134, R283: the count limits of REPU. -/
def repuBody (c : Nat) (op : RepOp) (s : State) : Except Stop Done := do
  repUnit s c op
  let k := (curBank s c).ct.toNat
  if 64 < k then raise 0x18 1 0
  else if 594 < 2 + k * (repMax s op + 1) then raise 0x18 2 0
  else repuLoop c op 65 true 0 false s

def execRepu (c : Nat) (op : RepOp) (s : State) : Out := runCore s (repRun (.repu c op) c op) (repuBody c op)

-- pair words

/-- A short operation of a pair word (R144). -/
structure Short where
  code : Nat
  rd : Reg
  rs : Reg
  deriving DecidableEq, Repr

def shortOf (v : Nat) : Short := ⟨v / 1024 % 32, Fin.ofNat 32 (v / 32 % 32), Fin.ofNat 32 (v % 32)⟩

/-- R144: a defined code with its zero fields zero. -/
def shortOk (h : Short) : Bool := h.code < 0x16 && (h.code ≠ 0 || (h.rd = 0 && h.rs = 0))

/-- R145: resources read and written: G registers by number, CC as 64. -/
def shortReads (h : Short) : List Nat :=
  if h.code = 0 || h.code = 0x15 then []
  else if h.code = 1 || h.code = 4 || h.code = 0x0F then [h.rs.val]
  else if 0x10 ≤ h.code then [h.rd.val]
  else [h.rd.val, h.rs.val]

def shortWrites (h : Short) : List Nat :=
  if h.code = 0 then []
  else if h.code = 5 || h.code = 0x0E || h.code = 0x11 then [64]
  else [h.rd.val]

/-- R145: the halves are independent. -/
def independent (a b : Short) : Bool :=
  let hits := fun (x y : List Nat) => x.any fun r => y.contains r
  !hits (shortWrites a) (shortReads b ++ shortWrites b) && !hits (shortWrites b) (shortReads a)

/-- R285: a generic half makes the word whole-core. -/
def isGenericShort (h : Short) : Bool := h.code = 0x0C || h.code = 0x0D || h.code = 0x0E

/-- Offset of the byte that makes a pair word undefined: fields in byte order, then dependence. -/
def pairUnd (a b : Short) : Option Nat :=
  if 0x16 ≤ a.code || (a.code = 0 && 16 ≤ a.rd.val) then some 0
  else if a.code = 0 && (a.rd ≠ 0 || 2 ≤ a.rs.val) then some 1
  else if a.code = 0 && a.rs ≠ 0 then some 2
  else if 0x16 ≤ b.code || (b.code = 0 && 8 ≤ b.rd.val) || (shortWrites a = [64] && shortWrites b = [64]) then some 2
  else if !shortOk b || !independent a b then some 3
  else none

/-- A 5-bit immediate, sign-extended. -/
def imm5 (h : Short) : Int := sx 5 h.rs.val

/-- What one half does, on the state `s` before the word; `t` carries the effects so far. Its cycles are those of a
generic half beyond the first. -/
def shortRun (c : Nat) (h : Short) (s t : State) : Except Stop GenDone := do
  let two := fun (op : IOp) => do
    let a ← rdG s c h.rd
    let b ← rdG s c h.rs
    intOperands a b
    let t ← intResult t c h.rd (intRes op a.pay b.pay)
    .ok ⟨t, 0, false, 0⟩
  let imm := fun (op : IOp) (v : Int) => do
    let a ← rdG s c h.rd
    intOperands a (fix 0)
    let t ← intResult t c h.rd (intRes op a.pay (BitVec.ofInt 64 v))
    .ok ⟨t, 0, false, 0⟩
  match h.code with
  | 0x00 => .ok ⟨t, 0, false, 0⟩
  | 0x01 =>
    let w ← rdG s c h.rs
    .ok ⟨wrG t c h.rd w, 0, false, 0⟩
  | 0x02 => two .add
  | 0x03 => two .sub
  | 0x04 =>
    let a ← rdG s c h.rs
    intOperands a (fix 0)
    let t ← intResult t c h.rd (ofExact (-a.pay.toInt))
    .ok ⟨t, 0, false, 0⟩
  | 0x05 =>
    let a ← rdG s c h.rd
    let b ← rdG s c h.rs
    intOperands a b
    .ok ⟨setCc t c (cmpCc a.pay.toInt b.pay.toInt), 0, false, 0⟩
  | 0x06 => two .and
  | 0x07 => two .or
  | 0x08 => two .xor
  | 0x09 => two .shl
  | 0x0A => two .shr
  | 0x0B => two .sar
  | 0x0C =>
    let a ← rdG s c h.rd
    let b ← rdG s c h.rs
    let d ← genArith c .add h.rd a b t
    .ok d
  | 0x0D =>
    let a ← rdG s c h.rd
    let b ← rdG s c h.rs
    let d ← genArith c .sub h.rd a b t
    .ok d
  | 0x0E =>
    let a ← rdG s c h.rd
    let b ← rdG s c h.rs
    let d ← genCmp c a b t
    .ok d
  | 0x0F =>
    let w ← rdG s c h.rs
    .ok ⟨wrG t c h.rd (fixN w.tag.toNat), 0, false, 0⟩
  | 0x10 => imm .add (imm5 h)
  | 0x11 =>
    let a ← rdG s c h.rd
    intOperands a (fix 0)
    .ok ⟨setCc t c (cmpCc a.pay.toInt (imm5 h)), 0, false, 0⟩
  | 0x12 => imm .shl h.rs.val
  | 0x13 => imm .shr h.rs.val
  | 0x14 => imm .sar h.rs.val
  | _ => .ok ⟨wrG t c h.rd (fixI (imm5 h)), 0, false, 0⟩

/-- R146: an exception of a half names the pair word and the half. -/
def inHalfOf (half : Bool) {α : Type} (r : Except Stop α) : Except Stop α :=
  match r with
  | .error (.exc e) => .error (.exc { e with isPair := true, half := half })
  | x => x

/-- R276: the far words that a half still waits for. -/
def shortFar (c : Nat) (h : Short) (s : State) : List Nat :=
  match shortRun c h s s with
  | .error (.far ws) => ws
  | _ => []

/-- R267: what the second half raises comes after the emulated cycles of both, of which `emu` are still to be paid. -/
def afterFirst (s : State) (c : Nat) (x : GenDone) {α : Type} (r : Except Stop α) : Except Stop α :=
  match r with
  | .error (.exc e) =>
    if x.emu = 0 then r
    else
      let emu := (emuLeft s c).getD (x.emu + e.emu)
      .error (.exc { e with emu := emu, fp := true, cycles := (x.cnt - x.emu) + (e.cycles - e.emu) + emu })
  | _ => r

/-- R276: the far words of both halves come in one round. -/
def pairBody (c : Nat) (a b : Short) (s : State) : Except Stop Done := do
  let x ← withFar (inHalfOf false (shortRun c a s s)) (shortFar c b s)
  let y ← afterFirst s c x (inHalfOf true (shortRun c b s x.s))
  let emu := (emuLeft s c).getD (x.emu + y.emu)
  .ok { Done.of y.s (1 + (x.cnt - x.emu) + (y.cnt - y.emu) + emu) with fp := x.fp || y.fp, emu := emu }

/-- The resources of a half in the schedule. -/
def pairTm (a b : Short) : Tm :=
  ⟨isGenericShort a || isGenericShort b, false, .alus, shortReads a ++ shortReads b, [], shortWrites a ++ shortWrites b⟩

def execPairWord (c : Nat) (prefixed : Bool) (w : BitVec 32) (s : State) : Out :=
  let a := shortOf (w.toNat / 2 ^ 15 % 2 ^ 15)
  let b := shortOf (w.toNat % 2 ^ 15)
  let und := if (curBank s c).smode then some (b2n prefixed) else if prefixed then some 1 else pairUnd a b
  runCore s ⟨c, none, 4 + b2n prefixed, und, pairTm a b, (Instr.pairWord c prefixed w).wf⟩ (pairBody c a b)

end Sys2Proof.Machine
end

