-- ==== Sys2Proof/Machine/Dispatch.lean ====
section
/-! DEFINITION. One arm for each command: its meaning. -/

namespace Sys2Proof.Machine

/-- The effect of a command on everything but the queue. -/
def exec (i : Instr) (s : State) : Host.Outcome State Fault Refusal :=
  match i with
  | .mode c prefixed imm => Sys2Proof.Machine.execMode c prefixed imm s
  | .identUnitPresence c rd => Sys2Proof.Machine.execIdentUnitPresence c rd s
  | .identContext c rd => Sys2Proof.Machine.execIdentContext c rd s
  | .identVersions c rd => Sys2Proof.Machine.execIdentVersions c rd s
  | .identPair c rd => Sys2Proof.Machine.execIdentPair c rd s
  | .tcommit c ra rb => Sys2Proof.Machine.execTcommit c ra rb s
  | .tabort c rd ra rb => Sys2Proof.Machine.execTabort c rd ra rb s
  | .tyield c => Sys2Proof.Machine.execTyield c s
  | .gate c ra => Sys2Proof.Machine.execGate c ra s
  | .gret c => Sys2Proof.Machine.execGret c s
  | .add c f => Sys2Proof.Machine.execAdd c f s
  | .sub c f => Sys2Proof.Machine.execSub c f s
  | .mul c f => Sys2Proof.Machine.execMul c f s
  | .div c f => Sys2Proof.Machine.execDiv c f s
  | .neg c f => Sys2Proof.Machine.execNeg c f s
  | .shl c f => Sys2Proof.Machine.execShl c f s
  | .shr c f => Sys2Proof.Machine.execShr c f s
  | .sar c f => Sys2Proof.Machine.execSar c f s
  | .cmp c f => Sys2Proof.Machine.execCmp c f s
  | .and c f => Sys2Proof.Machine.execAnd c f s
  | .or c f => Sys2Proof.Machine.execOr c f s
  | .xor c f => Sys2Proof.Machine.execXor c f s
  | .mov c f => Sys2Proof.Machine.execMov c f s
  | .addi c rd ra imm => Sys2Proof.Machine.execAddi c rd ra imm s
  | .cmpi c ra imm => Sys2Proof.Machine.execCmpi c ra imm s
  | .shli c rd ra imm => Sys2Proof.Machine.execShli c rd ra imm s
  | .shri c rd ra imm => Sys2Proof.Machine.execShri c rd ra imm s
  | .sari c rd ra imm => Sys2Proof.Machine.execSari c rd ra imm s
  | .andi c rd ra imm => Sys2Proof.Machine.execAndi c rd ra imm s
  | .ori c rd ra imm => Sys2Proof.Machine.execOri c rd ra imm s
  | .xori c rd ra imm => Sys2Proof.Machine.execXori c rd ra imm s
  | .ldi c rd imm => Sys2Proof.Machine.execLdi c rd imm s
  | .ldiw c rd imm => Sys2Proof.Machine.execLdiw c rd imm s
  | .addg c rd ra rb => Sys2Proof.Machine.execAddg c rd ra rb s
  | .subg c rd ra rb => Sys2Proof.Machine.execSubg c rd ra rb s
  | .mulg c rd ra rb => Sys2Proof.Machine.execMulg c rd ra rb s
  | .divg c rd ra rb => Sys2Proof.Machine.execDivg c rd ra rb s
  | .cmpg c ra rb => Sys2Proof.Machine.execCmpg c ra rb s
  | .tagr c rd ra => Sys2Proof.Machine.execTagr c rd ra s
  | .tags c rd ra rb => Sys2Proof.Machine.execTags c rd ra rb s
  | .cons c rd ra rb => Sys2Proof.Machine.execCons c rd ra rb s
  | .head c rd ra => Sys2Proof.Machine.execHead c rd ra s
  | .tail c rd ra => Sys2Proof.Machine.execTail c rd ra s
  | .seth c ra rb => Sys2Proof.Machine.execSeth c ra rb s
  | .sett c ra rb => Sys2Proof.Machine.execSett c ra rb s
  | .ld1 c rd m => Sys2Proof.Machine.execLd1 c rd m s
  | .ld2 c rd m => Sys2Proof.Machine.execLd2 c rd m s
  | .ld4 c rd m => Sys2Proof.Machine.execLd4 c rd m s
  | .ld8 c rd m => Sys2Proof.Machine.execLd8 c rd m s
  | .st1 c rd m => Sys2Proof.Machine.execSt1 c rd m s
  | .st2 c rd m => Sys2Proof.Machine.execSt2 c rd m s
  | .st4 c rd m => Sys2Proof.Machine.execSt4 c rd m s
  | .st8 c rd m => Sys2Proof.Machine.execSt8 c rd m s
  | .ldp c rd m => Sys2Proof.Machine.execLdp c rd m s
  | .stp c rd m => Sys2Proof.Machine.execStp c rd m s
  | .ldf c fd m => Sys2Proof.Machine.execLdf c fd m s
  | .stf c fd m => Sys2Proof.Machine.execStf c fd m s
  | .ldm c rd m => Sys2Proof.Machine.execLdm c rd m s
  | .stm c rd m => Sys2Proof.Machine.execStm c rd m s
  | .lda c a fmt l m => Sys2Proof.Machine.execLda c a fmt l m s
  | .sta c a fmt l m => Sys2Proof.Machine.execSta c a fmt l m s
  | .dadd c f => Sys2Proof.Machine.execDadd c f s
  | .dsub c f => Sys2Proof.Machine.execDsub c f s
  | .dmul c f units => Sys2Proof.Machine.execDmul c f units s
  | .ddiv c f units => Sys2Proof.Machine.execDdiv c f units s
  | .dcmp c f => Sys2Proof.Machine.execDcmp c f s
  | .dsrd c l sh rnd m => Sys2Proof.Machine.execDsrd c l sh rnd m s
  | .pack c l1 l2 m1 m2 => Sys2Proof.Machine.execPack c l1 l2 m1 m2 s
  | .unpk c l1 l2 m1 m2 => Sys2Proof.Machine.execUnpk c l1 l2 m1 m2 s
  | .cvpd c l1 l2 m1 m2 => Sys2Proof.Machine.execCvpd c l1 l2 m1 m2 s
  | .cvdp c l1 l2 m1 m2 => Sys2Proof.Machine.execCvdp c l1 l2 m1 m2 s
  | .movs c f units => Sys2Proof.Machine.execMovs c f units s
  | .movp c l1 l2 pad m1 m2 => Sys2Proof.Machine.execMovp c l1 l2 pad m1 m2 s
  | .cmps c f units => Sys2Proof.Machine.execCmps c f units s
  | .trns c f units => Sys2Proof.Machine.execTrns c f units s
  | .scan c f units => Sys2Proof.Machine.execScan c f units s
  | .edit c l1 l2 m1 m2 units => Sys2Proof.Machine.execEdit c l1 l2 m1 m2 units s
  | .edmk c l1 l2 m1 m2 units => Sys2Proof.Machine.execEdmk c l1 l2 m1 m2 units s
  | .fadd c f => Sys2Proof.Machine.execFadd c f s
  | .fsub c f => Sys2Proof.Machine.execFsub c f s
  | .fmul c f => Sys2Proof.Machine.execFmul c f s
  | .fdiv c f => Sys2Proof.Machine.execFdiv c f s
  | .fsqrt c f => Sys2Proof.Machine.execFsqrt c f s
  | .fcmp c f => Sys2Proof.Machine.execFcmp c f s
  | .fcvtToFix c f => Sys2Proof.Machine.execFcvtToFix c f s
  | .fcvtToFloat c f => Sys2Proof.Machine.execFcvtToFloat c f s
  | .fmov c fd fa => Sys2Proof.Machine.execFmov c fd fa s
  | .brc c f => Sys2Proof.Machine.execBrc c f s
  | .brl c f => Sys2Proof.Machine.execBrl c f s
  | .jmp c ra => Sys2Proof.Machine.execJmp c ra s
  | .jmpl c ra => Sys2Proof.Machine.execJmpl c ra s
  | .mfsr c f => Sys2Proof.Machine.execMfsr c f s
  | .mtsr c f => Sys2Proof.Machine.execMtsr c f s
  | .bct c rd m => Sys2Proof.Machine.execBct c rd m s
  | .cust c pre sel body => Sys2Proof.Machine.execCust c pre sel body s
  | .pairWord c prefixed w => Sys2Proof.Machine.execPairWord c prefixed w s
  | .repi c op iters => Sys2Proof.Machine.execRepi c op iters s
  | .repu c op => Sys2Proof.Machine.execRepu c op s
  | .exceptionEntry c => Sys2Proof.Machine.execExceptionEntry c s
  | .budgetOverrun c => Sys2Proof.Machine.execBudgetOverrun c s
  | .stop c reached => Sys2Proof.Machine.execStop c reached s
  | .preemption c => Sys2Proof.Machine.execPreemption c s
  | .dispatch c => Sys2Proof.Machine.execDispatch c s
  | .farVerdict c => Sys2Proof.Machine.execFarVerdict c s
  | .farDataArrival c err => Sys2Proof.Machine.execFarDataArrival c err s
  | .farWriteAcknowledgement c => Sys2Proof.Machine.execFarWriteAcknowledgement c s
  | .farPreRead c err => Sys2Proof.Machine.execFarPreRead c err s
  | .dramLineFetch c err => Sys2Proof.Machine.execDramLineFetch c err s
  | .storeBufferDrain c => Sys2Proof.Machine.execStoreBufferDrain c s
  | .meshTransferDelivery => Sys2Proof.Machine.execMeshTransferDelivery s
  | .trq p f => Sys2Proof.Machine.execTrq p f s
  | .squallExit p => Sys2Proof.Machine.execSquallExit p s
  | .frameCheckComplete p => Sys2Proof.Machine.execFrameCheckComplete p s
  | .admissionDecision => Sys2Proof.Machine.execAdmissionDecision s
  | .decisionRelease => Sys2Proof.Machine.execDecisionRelease s
  | .ack p => Sys2Proof.Machine.execAck p s
  | .ref p => Sys2Proof.Machine.execRef p s
  | .stagingRecordIssue lane => Sys2Proof.Machine.execStagingRecordIssue lane s
  | .stagingRecordArrival lane bad => Sys2Proof.Machine.execStagingRecordArrival lane bad s
  | .stagingStart lane => Sys2Proof.Machine.execStagingStart lane s
  | .journalRecordReady => Sys2Proof.Machine.execJournalRecordReady s
  | .chainTake => Sys2Proof.Machine.execChainTake s
  | .ringWriteComplete => Sys2Proof.Machine.execRingWriteComplete s
  | .trp p => Sys2Proof.Machine.execTrp p s
  | .poolGateWrite pool entry => Sys2Proof.Machine.execPoolGateWrite pool entry s
  | .poolGateChange => Sys2Proof.Machine.execPoolGateChange s
  | .selectorWrite prog words => Sys2Proof.Machine.execSelectorWrite prog words s
  | .jrd p stream => Sys2Proof.Machine.execJrd p stream s
  | .jda p seq stream good => Sys2Proof.Machine.execJda p seq stream good s
  | .jdr p seq stream good => Sys2Proof.Machine.execJdr p seq stream good s
  | .laneSignalDetect p => Sys2Proof.Machine.execLaneSignalDetect p s
  | .negotiateComplete p gens widths lanes rev inv => Sys2Proof.Machine.execNegotiateComplete p gens widths lanes rev inv s
  | .equalizeComplete p ok => Sys2Proof.Machine.execEqualizeComplete p ok s
  | .init h c0 c1 c2 c3 => Sys2Proof.Machine.execInit h c0 c1 c2 c3 s
  | .lossOfLock p => Sys2Proof.Machine.execLossOfLock p s
  | .relock p => Sys2Proof.Machine.execRelock p s
  | .recoverTimeout p => Sys2Proof.Machine.execRecoverTimeout p s
  | .parkWindowExpiry session => Sys2Proof.Machine.execParkWindowExpiry session s
  | .dataFlit p f => Sys2Proof.Machine.execDataFlit p f s
  | .idleFlit p f => Sys2Proof.Machine.execIdleFlit p f s
  | .nak p aseq => Sys2Proof.Machine.execNak p aseq s
  | .replayTimeout p => Sys2Proof.Machine.execReplayTimeout p s
  | .idleReq h => Sys2Proof.Machine.execIdleReq h s
  | .idleAck h => Sys2Proof.Machine.execIdleAck h s
  | .idleExit p => Sys2Proof.Machine.execIdleExit p s
  | .hail w => Sys2Proof.Machine.execHail w s
  | .hrp p peer kind park nonce echo good => Sys2Proof.Machine.execHrp p peer kind park nonce echo good s
  | .lgr p session seq grant good => Sys2Proof.Machine.execLgr p session seq grant good s
  | .mrqRead p idx sub id good => Sys2Proof.Machine.execMrqRead p idx sub id good s
  | .mrqWrite p idx sub id data good => Sys2Proof.Machine.execMrqWrite p idx sub id data good s
  | .mrqSignedWrite p idx sub id data good => Sys2Proof.Machine.execMrqSignedWrite p idx sub id data good s
  | .mrs p => Sys2Proof.Machine.execMrs p s
  | .tsy p t1 seq good => Sys2Proof.Machine.execTsy p t1 seq good s
  | .tdq p => Sys2Proof.Machine.execTdq p s
  | .tdr p t4 seq good => Sys2Proof.Machine.execTdr p t4 seq good s
  | .slewComplete => Sys2Proof.Machine.execSlewComplete s
  | .timeGuardCheck crystalNs => Sys2Proof.Machine.execTimeGuardCheck crystalNs s
  | .crystalLock locked => Sys2Proof.Machine.execCrystalLock locked s
  | .bof p offer len good => Sys2Proof.Machine.execBof p offer len good s
  | .bdt p k len data good => Sys2Proof.Machine.execBdt p k len data good s
  | .brqTimeout => Sys2Proof.Machine.execBrqTimeout s
  | .envelopeCheck => Sys2Proof.Machine.execEnvelopeCheck s
  | .fuseBlow sticks => Sys2Proof.Machine.execFuseBlow sticks s
  | .mrc q floor body good => Sys2Proof.Machine.execMrc q floor body good s
  | .mak q good => Sys2Proof.Machine.execMak q good s
  | .mhb serial side pstate ready r good => Sys2Proof.Machine.execMhb serial side pstate ready r good s
  | .mhbSend => Sys2Proof.Machine.execMhbSend s
  | .pairHbOutToggle => Sys2Proof.Machine.execPairHbOutToggle s
  | .pairHbInEdge => Sys2Proof.Machine.execPairHbInEdge s
  | .pathSilent pin => Sys2Proof.Machine.execPathSilent pin s
  | .makOverdue => Sys2Proof.Machine.execMakOverdue s
  | .soloGrantExpiry k => Sys2Proof.Machine.execSoloGrantExpiry k s
  | .joinTimeout => Sys2Proof.Machine.execJoinTimeout s
  | .rejoinReady => Sys2Proof.Machine.execRejoinReady s
  | .mapplyWrite v => Sys2Proof.Machine.execMapplyWrite v s
  | .partitionHandover mask => Sys2Proof.Machine.execPartitionHandover mask s
  | .partitionMoveRecord => Sys2Proof.Machine.execPartitionMoveRecord s
  | .barometerFault code kind index detail at' info => Sys2Proof.Machine.execBarometerFault code kind index detail at' info s
  | .cellSelfTest cell pass => Sys2Proof.Machine.execCellSelfTest cell pass s
  | .watchdogKick v => Sys2Proof.Machine.execWatchdogKick v s
  | .watchdogExpiry => Sys2Proof.Machine.execWatchdogExpiry s
  | .balrtClear mask => Sys2Proof.Machine.execBalrtClear mask s
  | .tableScrub bad => Sys2Proof.Machine.execTableScrub bad s
  | .patrolScrub addr err => Sys2Proof.Machine.execPatrolScrub addr err s
  | .forceSafeN => Sys2Proof.Machine.execForceSafeN s
  | .supplyOutOfWindow supply => Sys2Proof.Machine.execSupplyOutOfWindow supply s
  | .clockLoss clock => Sys2Proof.Machine.execClockLoss clock s
  | .coreClockDeviation ppm => Sys2Proof.Machine.execCoreClockDeviation ppm s
  | .overTemperature cell tenths => Sys2Proof.Machine.execOverTemperature cell tenths s
  | .safetyInputRawTransition pin => Sys2Proof.Machine.execSafetyInputRawTransition pin s
  | .timeStep env => Sys2Proof.Machine.execTimeStep env s
  | .closeLater env => Sys2Proof.Machine.execCloseLater env s
  | .reopen env => Sys2Proof.Machine.execReopen env s
  | .mogLimits env => Sys2Proof.Machine.execMogLimits env s
  | .kfill v => Sys2Proof.Machine.execKfill v s
  | .kfillComplete => Sys2Proof.Machine.execKfillComplete s
  | .keyTableWrite b eight w => Sys2Proof.Machine.execKeyTableWrite b eight w s
  | .regionShadowWrite n regb w => Sys2Proof.Machine.execRegionShadowWrite n regb w s
  | .repochCommit v => Sys2Proof.Machine.execRepochCommit v s
  | .epochBoundary => Sys2Proof.Machine.execEpochBoundary s
  | .jsealWrite v => Sys2Proof.Machine.execJsealWrite v s
  | .ringMoveComplete => Sys2Proof.Machine.execRingMoveComplete s
  | .fsealWrite v => Sys2Proof.Machine.execFsealWrite v s
  | .dcfgWrite v => Sys2Proof.Machine.execDcfgWrite v s
  | .cladOff cell v => Sys2Proof.Machine.execCladOff cell v s
  | .cladOn cell v => Sys2Proof.Machine.execCladOn cell v s
  | .cladRdy cell v => Sys2Proof.Machine.execCladRdy cell v s
  | .dladSvc v => Sys2Proof.Machine.execDladSvc v s
  | .registerWrite addr v => Sys2Proof.Machine.execRegisterWrite addr v s
  | .cellDescent cell => Sys2Proof.Machine.execCellDescent cell s
  | .wake cell => Sys2Proof.Machine.execWake cell s
  | .deviceRungEntry => Sys2Proof.Machine.execDeviceRungEntry s
  | .deviceWake src => Sys2Proof.Machine.execDeviceWake src s
  | .wakeTimerExpiry => Sys2Proof.Machine.execWakeTimerExpiry s
  | .reportRequest nonce => Sys2Proof.Machine.execReportRequest nonce s
  | .reportComplete => Sys2Proof.Machine.execReportComplete s
  | .releaseFrozenRecord n => Sys2Proof.Machine.execReleaseFrozenRecord n s
  | .errorListClear => Sys2Proof.Machine.execErrorListClear s
  | .nodeIdWrite v => Sys2Proof.Machine.execNodeIdWrite v s
  | .extest => Sys2Proof.Machine.execExtest s
  | .idcode => Sys2Proof.Machine.execIdcode s
  | .samplePreload => Sys2Proof.Machine.execSamplePreload s
  | .clamp => Sys2Proof.Machine.execClamp s
  | .highz => Sys2Proof.Machine.execHighz s
  | .dbgnonce => Sys2Proof.Machine.execDbgnonce s
  | .dbgtoken bytes => Sys2Proof.Machine.execDbgtoken bytes s
  | .slotprog slot hash => Sys2Proof.Machine.execSlotprog slot hash s
  | .lcadv => Sys2Proof.Machine.execLcadv s
  | .dap op addr w => Sys2Proof.Machine.execDap op addr w s
  | .testen high => Sys2Proof.Machine.execTesten high s
  | .bypass => Sys2Proof.Machine.execBypass s
  | .nmtStartRemoteNode node => Sys2Proof.Machine.execNmtStartRemoteNode node s
  | .nmtStopRemoteNode node => Sys2Proof.Machine.execNmtStopRemoteNode node s
  | .nmtEnterPreOperational node => Sys2Proof.Machine.execNmtEnterPreOperational node s
  | .nmtResetNode node => Sys2Proof.Machine.execNmtResetNode node s
  | .nmtResetCommunication node => Sys2Proof.Machine.execNmtResetCommunication node s
  | .errorPassive on => Sys2Proof.Machine.execErrorPassive on s
  | .sdoInitiateUpload idx sub => Sys2Proof.Machine.execSdoInitiateUpload idx sub s
  | .sdoInitiateDownload idx sub expedited size data => Sys2Proof.Machine.execSdoInitiateDownload idx sub expedited size data s
  | .sdoUploadSegment toggle => Sys2Proof.Machine.execSdoUploadSegment toggle s
  | .sdoDownloadSegment toggle data last => Sys2Proof.Machine.execSdoDownloadSegment toggle data last s
  | .sdoBlockInitiate idx sub => Sys2Proof.Machine.execSdoBlockInitiate idx sub s
  | .sdoSegmentTimeout => Sys2Proof.Machine.execSdoSegmentTimeout s
  | .sdoResponse => Sys2Proof.Machine.execSdoResponse s
  | .heartbeat => Sys2Proof.Machine.execHeartbeat s
  | .busOff => Sys2Proof.Machine.execBusOff s
  | .busOffRecovery => Sys2Proof.Machine.execBusOffRecovery s
  | .powerOnReset => Sys2Proof.Machine.execPowerOnReset s
  | .porstNRelease => Sys2Proof.Machine.execPorstNRelease s
  | .suppliesInWindow => Sys2Proof.Machine.execSuppliesInWindow s
  | .systemReset => Sys2Proof.Machine.execSystemReset s
  | .barometerSelfTest => Sys2Proof.Machine.execBarometerSelfTest s

end Sys2Proof.Machine
end

