-- ==== Sys2Proof/Machine/Encoding.lean ====
section
/-! DEFINITION. Chapter 04 over bytes: what the bytes at an instruction's address are (R126 to R132, R136
to R151). A core's command stands for the instruction at its address (log entry 43); `instrAt` says which
one that is, and `runNext` runs it. Offsets count from the first prefix; the least one is the byte that
decides (R128). -/

namespace Sys2Proof.Machine

/-- A byte sequence is an instruction, or undefined at a byte (R151). -/
inductive Spelled where
  | instr (i : Instr)
  | undefined (o : Nat)
  deriving DecidableEq, Repr

-- fields

/-- Byte `o`, and the big-endian number of `n` bytes from it. -/
def byteAt (bs : List Byte) (o : Nat) : Nat := (bs.getD o 0).toNat
def numAt (bs : List Byte) (o n : Nat) : Nat := beNat ((List.range n).map fun k => bs.getD (o + k) 0)

/-- Bits `hi` to `lo` of a number. -/
def bitsOf (v hi lo : Nat) : Nat := v / 2 ^ lo % 2 ^ (hi + 1 - lo)

def regOf (v : Nat) : Reg := Fin.ofNat 32 v
def accNo (v : Nat) : Fin 4 := Fin.ofNat 4 v

/-- A reserved field: the byte at `o` decides when it is not zero. -/
def rsvdAt (v o : Nat) : Option Nat := badAt (v ≠ 0) o

/-- The first of the bytes that make a sequence undefined. -/
def firstOf (l : List (Option Nat)) : Option Nat := (l.filterMap id).min?

-- specifiers

/-- R139: a register-mode specifier at `o` and its reserved fields. -/
def regSpec (bs : List Byte) (o : Nat) : RMem × List (Option Nat) :=
  let w := numAt bs o 4
  let form := bitsOf w 31 30
  let sc := BitVec.ofNat 2 (bitsOf w 29 28)
  let b := bitsOf w 27 23
  let x := bitsOf w 22 18
  let d := bitsOf w 17 0
  let noIndex := [rsvdAt sc.toNat o, rsvdAt x (o + 1)]
  let noBase := [rsvdAt (b / 2) o, rsvdAt b (o + 1), rsvdAt (d / 65536) (o + 1)]
  match form with
  | 0 => (.ptr (regOf b) (BitVec.ofNat 18 d), noIndex)
  | 1 => (.ptrX sc (regOf b) (regOf x) (BitVec.ofNat 18 d), [])
  | 2 => (.short (BitVec.ofNat 16 d), noIndex ++ noBase)
  | _ => (.shortX sc (regOf x) (BitVec.ofNat 16 d), noBase)

/-- R140: the long specifier. -/
def longSpec (bs : List Byte) (o : Nat) : RMem × List (Option Nat) :=
  let w := numAt bs o 6
  let a := BitVec.ofNat 40 w
  if bitsOf w 47 47 = 1 then (.longX (BitVec.ofNat 2 (bitsOf w 46 45)) (regOf (bitsOf w 44 40)) a, [])
  else (.long a, [rsvdAt (bitsOf w 46 40) o])

/-- R149: a storage specifier. -/
def stoSpec (bs : List Byte) (o : Nat) : SMem × List (Option Nat) :=
  let w := numAt bs o 3
  let am := bitsOf w 23 21
  let ext := bitsOf w 20 20 = 1
  let x := bitsOf w 15 12
  let d := bitsOf w 11 0 + if ext then byteAt bs (o + 3) * 4096 else 0
  let m : SMode := if am = 1 then .indirect else if am = 2 then .postInc else if am = 3 then .preDec else .based
  (⟨m, ext, Fin.ofNat 16 (bitsOf w 19 16), Fin.ofNat 16 x, BitVec.ofNat 20 d⟩,
    [badAt (4 ≤ am) o, badAt (am ≠ 0 && x ≠ 0) (o + 1)])

/-- The specifier at `o` in the mode: the operand and its reserved fields. -/
def specAt (sm long : Bool) (bs : List Byte) (o : Nat) : Mem × List (Option Nat) :=
  if sm then (.sto (stoSpec bs o).1, (stoSpec bs o).2)
  else if long then (.reg (longSpec bs o).1, (longSpec bs o).2)
  else (.reg (regSpec bs o).1, (regSpec bs o).2)

/-- The offset after the specifier `m` at `o`; LONG has been counted with the prefixes. -/
def afterSpec (m : Mem) (o : Nat) : Nat := o + memBytes m - b2n m.isLong

/-- Two and three specifiers; the first alone is long. -/
def specs2 (sm long : Bool) (bs : List Byte) (o : Nat) : Mem × Mem × List (Option Nat) :=
  let a := specAt sm long bs o
  let b := specAt sm false bs (afterSpec a.1 o)
  (a.1, b.1, a.2 ++ b.2)

def specs3 (sm : Bool) (bs : List Byte) (o : Nat) : Mem × Mem × Mem × List (Option Nat) :=
  let a := specs2 sm false bs o
  let b := specAt sm false bs (afterSpec a.2.1 (afterSpec a.1 o))
  (a.1, a.2.1, b.1, a.2.2 ++ b.2)

-- prefixes

/-- R129 to R132: the prefixes: undefined at a byte, a CUST with xF3 at `o`, or a first byte at `o`. -/
inductive Prefixed where
  | bad (o : Nat)
  | cust (o : Nat)
  | first (rep : Option Bool) (long : Bool) (o : Nat)
  deriving DecidableEq, Repr

def prefixScan (sm : Bool) (rep : Option Bool) (long : Bool) (o : Nat) : List Byte → Prefixed
  | [] => .first rep long o
  | b :: r =>
    if b.toNat < 0xF0 then .first rep long o
    else if b = 0xF3 then (if rep.isSome then .bad o else .cust o)
    else if b = 0xF2 then (if sm || long then .bad o else prefixScan sm rep true (o + 1) r)
    else if b = 0xF0 ∨ b = 0xF1 then
      (if rep.isSome || long then .bad o else prefixScan sm (some (b = 0xF1)) long (o + 1) r)
    else .bad o

-- CUST

/-- R136: selector and body of a CUST whose xF3 stands at `o`. -/
def custAt (c : Nat) (sm : Bool) (bs : List Byte) (o : Nat) : Instr × List (Option Nat) :=
  let pre := bs.take o
  let form := byteAt bs (o + 2)
  let rr := numAt bs (o + 3) 2
  let m := specAt sm (pre.contains 0xF2) bs (o + 4)
  let body : CustBody × List (Option Nat) :=
    match form / 64 with
    | 0 => (.none, [])
    | 1 => (.rrr (regOf (bitsOf rr 15 11)) (regOf (bitsOf rr 10 6)) (regOf (bitsOf rr 5 1)), [rsvdAt (rr % 2) (o + 4)])
    | 2 => (.rm (regOf (bitsOf rr 15 11)) m.1, rsvdAt (bitsOf rr 10 8) (o + 3) :: m.2)
    | _ => (.reserved, [])
  (.cust c pre (bs.getD (o + 1) 0) body.1, rsvdAt (form % 64) (o + 2) :: custUnd sm pre body.1 :: body.2)

-- opcode maps

/-- The decimal operation of the last rows of a block of five, and the conversions. -/
def decOpNo (k : Nat) : DOp := match k with | 0 => .add | 1 => .sub | 2 => .mul | 3 => .div | _ => .cmp
def cvOpNo (k : Nat) : CvOp := match k with | 0 => .pack | 1 => .unpk | 2 => .cvpd | _ => .cvdp

/-- Rows with one format in both modes: AM and SA, MS and SD, MM and SS2, MMM and SS3, MMP and SSP;
`k` is the offset of the first byte. -/
def amForm (st : Bool) (sm long : Bool) (bs : List Byte) (k : Nat) : RepOp × List (Option Nat) :=
  let v := numAt bs (k + 1) 2
  let m := specAt sm long bs (k + 3)
  let a := accNo (bitsOf v 15 14)
  let f := BitVec.ofNat 2 (bitsOf v 13 12)
  let l := bitsOf v 11 6 + 1
  (if st then .sta a f l m.1 else .lda a f l m.1, rsvdAt (bitsOf v 5 0) (k + 2) :: m.2)

def msForm (sm long : Bool) (bs : List Byte) (k : Nat) : RepOp × List (Option Nat) :=
  let m := specAt sm long bs (k + 4)
  let r := byteAt bs (k + 3)
  (.dsrd (byteAt bs (k + 1) + 1) (BitVec.ofNat 8 (byteAt bs (k + 2))) (BitVec.ofNat 4 (r / 16)) m.1,
    rsvdAt (r % 16) (k + 3) :: m.2)

def mmForm (mk : Nat → Nat → Mem → Mem → RepOp) (sm long : Bool) (bs : List Byte) (k : Nat) :
    RepOp × List (Option Nat) :=
  let p := specs2 sm long bs (k + 3)
  (mk (byteAt bs (k + 1) + 1) (byteAt bs (k + 2) + 1) p.1 p.2.1, p.2.2)

def mmmForm (op : DOp) (sm : Bool) (bs : List Byte) (k : Nat) : RepOp × List (Option Nat) :=
  let v := numAt bs (k + 1) 2
  let p := specs3 sm bs (k + 3)
  (.dec op (.mmm (bitsOf v 15 11 + 1) (bitsOf v 10 6 + 1) (bitsOf v 5 1 + 1) p.1 p.2.1 p.2.2.1),
    rsvdAt (v % 2) (k + 2) :: p.2.2.2)

def mmpForm (sm long : Bool) (bs : List Byte) (k : Nat) : RepOp × List (Option Nat) :=
  let p := specs2 sm long bs (k + 4)
  (.movp (byteAt bs (k + 1) + 1) (byteAt bs (k + 2) + 1) (bs.getD (k + 3) 0) p.1 p.2.1, p.2.2)

/-- A register byte and a specifier: RM of R137, SX of R148. -/
def rmForm (mk : Reg → Mem → RepOp) (sm long : Bool) (bs : List Byte) (k : Nat) : RepOp × List (Option Nat) :=
  let v := byteAt bs (k + 1)
  let m := specAt sm long bs (k + 2)
  if sm then (mk (regOf (v / 16)) m.1, rsvdAt (v % 16) (k + 1) :: m.2)
  else (mk (regOf (v / 8)) m.1, rsvdAt (v % 8) (k + 1) :: m.2)

/-- The SX rows of R150 with an integer or binary64 operation. -/
def sxForm (mk : Reg → SMem → RepOp) (bs : List Byte) (k : Nat) : RepOp × List (Option Nat) :=
  let v := byteAt bs (k + 1)
  let m := stoSpec bs (k + 2)
  (mk (regOf (v / 16)) m.1, rsvdAt (v % 16) (k + 1) :: m.2)

/-- R141: the repeatable rows of register mode. -/
def repRowReg (long : Bool) (bs : List Byte) (k f : Nat) : Option (RepOp × List (Option Nat)) :=
  if 0x40 ≤ f ∧ f ≤ 0x43 then some (rmForm (.ld (Fin.ofNat 4 f)) false long bs k)
  else if 0x44 ≤ f ∧ f ≤ 0x47 then some (rmForm (.st (Fin.ofNat 4 f)) false long bs k)
  else if f = 0x4A then some (rmForm .ldf false long bs k)
  else if f = 0x4B then some (rmForm .stf false long bs k)
  else if f = 0x4E ∨ f = 0x4F then some (amForm (f = 0x4F) false long bs k)
  else if 0x50 ≤ f ∧ f ≤ 0x54 then
    some (mmForm (fun a b x y => .dec (decOpNo (f - 0x50)) (.mm a b x y)) false long bs k)
  else if f = 0x55 then some (msForm false long bs k)
  else if 0x56 ≤ f ∧ f ≤ 0x59 then some (mmForm (.conv (cvOpNo (f - 0x56))) false long bs k)
  else if 0x5A ≤ f ∧ f ≤ 0x5D then some (mmmForm (decOpNo (f - 0x5A)) false bs k)
  else if f = 0x69 then some (mmpForm false long bs k)
  else none

/-- R150: the repeatable rows of storage mode. -/
def repRowSto (bs : List Byte) (k f : Nat) : Option (RepOp × List (Option Nat)) :=
  match f with
  | 0x20 => some (sxForm (.alu .add) bs k)
  | 0x21 => some (sxForm (.alu .sub) bs k)
  | 0x22 => some (sxForm (.alu .mul) bs k)
  | 0x23 => some (sxForm (.alu .div) bs k)
  | 0x24 => some (rmForm (.ld 2) true false bs k)
  | 0x25 => some (rmForm (.st 2) true false bs k)
  | 0x26 => some (rmForm (.ld 3) true false bs k)
  | 0x27 => some (rmForm (.st 3) true false bs k)
  | 0x28 => some (sxForm (.alu .cmp) bs k)
  | 0x29 => some (sxForm (.alu .and) bs k)
  | 0x2A => some (sxForm (.alu .or) bs k)
  | 0x2B => some (sxForm (.alu .xor) bs k)
  | 0x2C => some (rmForm (.ld 0) true false bs k)
  | 0x2D => some (rmForm (.st 0) true false bs k)
  | 0x2E => some (rmForm (.ld 1) true false bs k)
  | 0x2F => some (rmForm (.st 1) true false bs k)
  | 0x30 => some (rmForm .ldf true false bs k)
  | 0x31 => some (rmForm .stf true false bs k)
  | 0x32 => some (sxForm (.fp .add) bs k)
  | 0x33 => some (sxForm (.fp .sub) bs k)
  | 0x34 => some (sxForm (.fp .mul) bs k)
  | 0x35 => some (sxForm (.fp .div) bs k)
  | 0x36 => some (sxForm (.fp .cmp) bs k)
  | 0x45 => some (msForm true false bs k)
  | 0x4E => some (amForm false true false bs k)
  | 0x4F => some (amForm true true false bs k)
  | 0x51 => some (mmpForm true false bs k)
  | _ =>
    if 0x40 ≤ f ∧ f ≤ 0x44 then some (mmForm (fun a b x y => .dec (decOpNo (f - 0x40)) (.mm a b x y)) true false bs k)
    else if 0x46 ≤ f ∧ f ≤ 0x49 then some (mmForm (.conv (cvOpNo (f - 0x46))) true false bs k)
    else if 0x4A ≤ f ∧ f ≤ 0x4D then some (mmmForm (decOpNo (f - 0x4A)) true bs k)
    else none

def repRow (sm long : Bool) (bs : List Byte) (k f : Nat) : Option (RepOp × List (Option Nat)) :=
  if sm then repRowSto bs k f else repRowReg long bs k f

/-- The same operation without a repeat prefix; `n` is how many units run (R215). -/
def plainOf (c n : Nat) : RepOp → Option Instr
  | .ld z r m => some (match z with | 0 => .ld1 c r m | 1 => .ld2 c r m | 2 => .ld4 c r m | _ => .ld8 c r m)
  | .st z r m => some (match z with | 0 => .st1 c r m | 1 => .st2 c r m | 2 => .st4 c r m | _ => .st8 c r m)
  | .ldf r m => some (.ldf c r m)
  | .stf r m => some (.stf c r m)
  | .lda a f l m => some (.lda c a f l m)
  | .sta a f l m => some (.sta c a f l m)
  | .dec op f =>
    some (match op with
      | .add => .dadd c f | .sub => .dsub c f | .mul => .dmul c f n | .div => .ddiv c f n | .cmp => .dcmp c f)
  | .dsrd l sh r m => some (.dsrd c l sh r m)
  | .conv op l1 l2 a b =>
    some (match op with
      | .pack => .pack c l1 l2 a b | .unpk => .unpk c l1 l2 a b | .cvpd => .cvpd c l1 l2 a b | .cvdp => .cvdp c l1 l2 a b)
  | .movp l1 l2 p a b => some (.movp c l1 l2 p a b)
  | .alu op r m =>
    let f := AluForm.sx r m
    some (match op with
      | .add => .add c f | .sub => .sub c f | .mul => .mul c f | .div => .div c f | .cmp => .cmp c f
      | .and => .and c f | .or => .or c f | .xor => .xor c f)
  | .fp op r m =>
    let f := FForm.sx r m
    some (match op with
      | .add => .fadd c f | .sub => .fsub c f | .mul => .fmul c f | .div => .fdiv c f | .cmp => .fcmp c f)
  | .other _ => none

/-- The fields of RR (R137): rd, ra, rb, and its reserved bit. -/
structure RrField where
  rd : Reg
  ra : Reg
  rb : Reg
  zero : Option Nat
  deriving DecidableEq, Repr

def rrAt (bs : List Byte) (k : Nat) : RrField :=
  let v := numAt bs (k + 1) 2
  ⟨regOf (bitsOf v 15 11), regOf (bitsOf v 10 6), regOf (bitsOf v 5 1), rsvdAt (v % 2) (k + 2)⟩

def noRd (r : RrField) (k : Nat) : Option Nat := rsvdAt r.rd.val (k + 1)
def noRb (r : RrField) (k : Nat) : Option Nat := rsvdAt r.rb.val (k + 2)

/-- R147: fields above 15 in storage mode, with the byte that decides each. -/
def lowAt (sm : Bool) (l : List (Reg × Nat)) : List (Option Nat) :=
  if sm then l.map fun e => badAt (!lowReg e.1) e.2 else []

/-- The shared block (R141), its first byte at 0: no prefix stands before it (R131). -/
def sharedRow (c : Nat) (sm : Bool) (bs : List Byte) (f : Nat) : Option (Instr × List (Option Nat)) :=
  let r := rrAt bs 0
  match f with
  | 1 => some (.mode c false (bs.getD 1 0), [badAt (2 ≤ byteAt bs 1) 1])
  | 2 =>
    let rd := regOf (byteAt bs 1 / 8)
    let z := rsvdAt (byteAt bs 1 % 8) 1 :: lowAt sm [(rd, 1)]
    match byteAt bs 2 with
    | 0 => some (.identUnitPresence c rd, z)
    | 1 => some (.identContext c rd, z)
    | 2 => some (.identVersions c rd, z)
    | 3 => some (.identPair c rd, z)
    | _ => some (.identPair c rd, z ++ [some 2])
  | 3 => some (.tcommit c r.ra r.rb, [noRd r 0, r.zero] ++ lowAt sm [(r.ra, 1), (r.rb, 2)])
  | 4 => some (.tabort c r.rd r.ra r.rb, r.zero :: lowAt sm [(r.rd, 1), (r.ra, 1), (r.rb, 2)])
  | 5 => some (.tyield c, [])
  | 6 => some (.gate c r.ra, [noRd r 0, noRb r 0, r.zero] ++ lowAt sm [(r.ra, 1)])
  | 7 => some (.gret c, [])
  | _ => none

/-- R141: the RR rows of register mode. -/
def rrRow (c n : Nat) (r : RrField) (k f : Nat) : Option (Instr × List (Option Nat)) :=
  let al := AluForm.rr r.rd r.ra r.rb
  let un := UnForm.rr r.rd r.ra
  let fp := FForm.rr r.rd r.ra r.rb
  let st := StrForm.reg r.rd r.ra r.rb
  let strs := (strUnd st).map (· + k)
  match f with
  | 0x10 => some (.add c al, [])
  | 0x11 => some (.sub c al, [])
  | 0x12 => some (.mul c al, [])
  | 0x13 => some (.div c al, [(aluUnd true al).map (· + k)])
  | 0x14 => some (.neg c un, [noRb r k])
  | 0x15 => some (.shl c al, [])
  | 0x16 => some (.shr c al, [])
  | 0x17 => some (.sar c al, [])
  | 0x18 => some (.cmp c al, [noRd r k])
  | 0x19 => some (.and c al, [])
  | 0x1A => some (.or c al, [])
  | 0x1B => some (.xor c al, [])
  | 0x1C => some (.mov c un, [noRb r k])
  | 0x30 => some (.addg c r.rd r.ra r.rb, [])
  | 0x31 => some (.subg c r.rd r.ra r.rb, [])
  | 0x32 => some (.mulg c r.rd r.ra r.rb, [])
  | 0x33 => some (.divg c r.rd r.ra r.rb, [])
  | 0x34 => some (.cmpg c r.ra r.rb, [noRd r k])
  | 0x35 => some (.tagr c r.rd r.ra, [noRb r k])
  | 0x36 => some (.tags c r.rd r.ra r.rb, [])
  | 0x37 => some (.cons c r.rd r.ra r.rb, [])
  | 0x38 => some (.head c r.rd r.ra, [noRb r k])
  | 0x39 => some (.tail c r.rd r.ra, [noRb r k])
  | 0x3A => some (.seth c r.ra r.rb, [noRd r k])
  | 0x3B => some (.sett c r.ra r.rb, [noRd r k])
  | 0x68 => some (.movs c st n, [strs])
  | 0x6A => some (.cmps c st n, [strs])
  | 0x6B => some (.trns c st n, [strs])
  | 0x6C => some (.scan c st n, [strs])
  | 0x70 => some (.fadd c fp, [])
  | 0x71 => some (.fsub c fp, [])
  | 0x72 => some (.fmul c fp, [])
  | 0x73 => some (.fdiv c fp, [])
  | 0x74 => some (.fsqrt c un, [noRb r k])
  | 0x75 => some (.fcmp c fp, [noRd r k])
  | 0x76 => some (if r.rb = 0 then .fcvtToFix c un else .fcvtToFloat c un, [badAt (2 ≤ r.rb.val) (k + 2)])
  | 0x77 => some (.fmov c r.rd r.ra, [noRb r k])
  | 0xC2 => some (.jmp c r.ra, [noRd r k, noRb r k])
  | 0xC3 => some (.jmpl c r.ra, [noRd r k, noRb r k])
  | 0xC4 => some (.mfsr c un, [badAt (8 ≤ r.ra.val) (k + 1), badAt (r.ra.val = 7) (k + 2), noRb r k])
  | 0xC5 => some (.mtsr c un, [(sprUnd r.rd.val).map (· + k), noRb r k])
  | _ => none

/-- R141: the RI rows. -/
def riRow (c : Nat) (bs : List Byte) (k f : Nat) : Option (Instr × List (Option Nat)) :=
  let v := numAt bs (k + 1) 3
  let rd := regOf (bitsOf v 23 19)
  let ra := regOf (bitsOf v 18 14)
  let i := BitVec.ofNat 14 v
  match f with
  | 0x20 => some (.addi c rd ra i, [])
  | 0x21 => some (.cmpi c ra i, [rsvdAt rd.val (k + 1)])
  | 0x22 => some (.shli c rd ra i, [])
  | 0x23 => some (.shri c rd ra i, [])
  | 0x24 => some (.sari c rd ra i, [])
  | 0x25 => some (.andi c rd ra i, [])
  | 0x26 => some (.ori c rd ra i, [])
  | 0x27 => some (.xori c rd ra i, [])
  | 0x28 => some (.ldi c rd i, [rsvdAt (ra.val / 4) (k + 1), rsvdAt ra.val (k + 2)])
  | _ => none

/-- R141: LDIW, BRC, BRL and the AA rows. -/
def miscRow (c n : Nat) (bs : List Byte) (k f : Nat) : Option (Instr × List (Option Nat)) :=
  let b := byteAt bs (k + 1)
  let aa := DForm.aa (accNo (b / 64)) (accNo (b / 16))
  let z := [rsvdAt (b % 16) (k + 1)]
  match f with
  | 0x29 => some (.ldiw c (regOf (b / 8)) (BitVec.ofNat 64 (numAt bs (k + 2) 8)), [rsvdAt (b % 8) (k + 1)])
  | 0x60 => some (.dadd c aa, z)
  | 0x61 => some (.dsub c aa, z)
  | 0x62 => some (.dmul c aa n, z)
  | 0x63 => some (.ddiv c aa n, (decUnd .div aa).map (· + k) :: z)
  | 0x64 => some (.dcmp c aa, z)
  | 0xC0 =>
    let v := numAt bs (k + 1) 3
    some (.brc c (.rel (BitVec.ofNat 4 (bitsOf v 23 20)) (BitVec.ofNat 20 v)), [])
  | 0xC1 => some (.brl c (.rel (BitVec.ofNat 24 (numAt bs (k + 1) 3))), [])
  | _ => none

/-- R141: the rows with a memory operand that are not repeatable; LONG may stand before them. -/
def memRowReg (c n : Nat) (long : Bool) (bs : List Byte) (k f : Nat) : Option (Instr × List (Option Nat)) :=
  let b := byteAt bs (k + 1)
  let rd := regOf (b / 8)
  let z := rsvdAt (b % 8) (k + 1)
  let m := if long then longSpec bs (k + 2) else regSpec bs (k + 2)
  let p := specs2 false long bs (k + 3)
  let ed := badAt (b + 1 < 4) (k + 1) :: p.2.2
  match f with
  | 0x48 => some (.ldp c rd m.1, z :: m.2)
  | 0x49 => some (.stp c rd m.1, z :: m.2)
  | 0x4C => some (.ldm c rd (.reg m.1), z :: m.2)
  | 0x4D => some (.stm c rd (.reg m.1), z :: m.2)
  | 0x6D => some (.edit c (b + 1) (byteAt bs (k + 2) + 1) p.1 p.2.1 n, ed)
  | 0x6E => some (.edmk c (b + 1) (byteAt bs (k + 2) + 1) p.1 p.2.1 n, ed)
  | _ => none

/-- R150: the SR rows of storage mode. -/
def srRow (c n : Nat) (bs : List Byte) (f : Nat) : Option (Instr × List (Option Nat)) :=
  let b := byteAt bs 1
  let rd := regOf (b / 16)
  let ra := regOf (b % 16)
  let al := AluForm.sr rd ra
  let un := UnForm.sr rd ra
  let fp := FForm.sr rd ra
  let st := StrForm.sto rd ra
  match f with
  | 0x10 => some (.add c al, [])
  | 0x11 => some (.sub c al, [])
  | 0x12 => some (.mul c al, [])
  | 0x13 => some (.div c al, [aluUnd true al])
  | 0x14 => some (.neg c un, [])
  | 0x15 => some (.shl c al, [])
  | 0x16 => some (.shr c al, [])
  | 0x17 => some (.sar c al, [])
  | 0x18 => some (.cmp c al, [])
  | 0x19 => some (.and c al, [])
  | 0x1A => some (.or c al, [])
  | 0x1B => some (.xor c al, [])
  | 0x1C => some (.mov c un, [])
  | 0x38 => some (.fadd c fp, [])
  | 0x39 => some (.fsub c fp, [])
  | 0x3A => some (.fmul c fp, [])
  | 0x3B => some (.fdiv c fp, [])
  | 0x3C => some (.fsqrt c un, [])
  | 0x3D => some (.fcmp c fp, [])
  | 0x3E => some (.fcvtToFix c un, [])
  | 0x3F => some (.fcvtToFloat c un, [])
  | 0x50 => some (.movs c st n, [strUnd st])
  | 0x52 => some (.cmps c st n, [strUnd st])
  | 0x53 => some (.trns c st n, [strUnd st])
  | 0x54 => some (.scan c st n, [strUnd st])
  | 0x64 => some (.mfsr c un, [sprUnd ra.val])
  | 0x65 => some (.mtsr c un, [sprUnd rd.val])
  | _ => none

/-- R150: the rows of storage mode with a specifier that are not repeatable. -/
def memRowSto (c n : Nat) (bs : List Byte) (f : Nat) : Option (Instr × List (Option Nat)) :=
  let b := byteAt bs 1
  let rd := regOf (b / 16)
  let m := stoSpec bs 2
  let z := rsvdAt (b % 16) 1 :: memUnd 2 (.sto m.1) :: m.2
  let p := specs2 true false bs 3
  let ed := mmUnd (b + 1 < 4) false p.1 p.2.1 :: p.2.2
  match f with
  | 0x55 => some (.edit c (b + 1) (byteAt bs 2 + 1) p.1 p.2.1 n, ed)
  | 0x56 => some (.edmk c (b + 1) (byteAt bs 2 + 1) p.1 p.2.1 n, ed)
  | 0x60 => some (.brc c (.sto (BitVec.ofNat 4 (b / 16)) m.1), z)
  | 0x61 => some (.brl c (.sto rd m.1), z)
  | 0x62 => some (.ldm c rd (.sto m.1), z)
  | 0x63 => some (.stm c rd (.sto m.1), z)
  | 0x66 => some (.bct c rd m.1, z)
  | _ => none

/-- The first of several maps that has a row. -/
def orRow {α : Type} (a b : Option α) : Option α := match a with | some x => some x | none => b

/-- The rows that are not repeatable; LONG needs a memory operand (R132). -/
def onceRow (c n : Nat) (sm long : Bool) (bs : List Byte) (k f : Nat) : Option (Instr × List (Option Nat)) :=
  if sm then orRow (srRow c n bs f) (memRowSto c n bs f)
  else orRow (memRowReg c n long bs k f)
    (if long then none
     else orRow ((rrRow c n (rrAt bs k) k f).map fun e => (e.1, (rrAt bs k).zero :: e.2))
      (orRow (riRow c bs k f) (miscRow c n bs k f)))

-- the decoder

/-- The outcome of a decoded row: R128, the first byte that decides. -/
def settleRow (k : Nat) : Option (Instr × List (Option Nat)) → Spelled
  | none => .undefined k
  | some e => match firstOf e.2 with | some o => .undefined o | none => .instr e.1

/-- R132: an MMM form has no room for a long specifier (R127). -/
def longMmm (long : Bool) : RepOp → Bool
  | .dec _ (.mmm ..) => long
  | _ => false

/-- The instruction whose first byte is at `k`, after the prefixes. -/
def decodeFirst (c n : Nat) (sm : Bool) (rep : Option Bool) (long : Bool) (k : Nat) (bs : List Byte) : Spelled :=
  let f := byteAt bs k
  if f < 0x10 then (if k = 0 then settleRow 0 (sharedRow c sm bs f) else .undefined k)
  else if 0x80 ≤ f && f < 0xC0 then
    (if sm || k ≠ 0 then .undefined k
     else
      let w := numAt bs 0 4
      settleRow 0 (some (.pairWord c false (BitVec.ofNat 32 w), [pairUnd (shortOf (w / 2 ^ 15 % 2 ^ 15)) (shortOf (w % 2 ^ 15))])))
  else match rep, repRow sm long bs k f with
    | some u, some (op, z) =>
      if longMmm long op then .undefined k
      else settleRow k (some (if u then .repu c op else .repi c op n, repUnd op :: z))
    | some _, none => .undefined k
    | none, some (op, z) =>
      if longMmm long op then .undefined k
      else settleRow k ((plainOf c n op).map fun i => (i, repInner op :: z))
    | none, none => settleRow k (onceRow c n sm long bs k f)

/-- R126, R151: what 15 bytes are in a mode; `n` is how many iterations or units run before an event is
taken (R135, R215). -/
def decodeBytes (c n : Nat) (sm : Bool) (bs : List Byte) : Spelled :=
  match prefixScan sm none false 0 bs with
  | .bad o => .undefined o
  | .cust o => settleRow o (some (custAt c sm bs o))
  | .first rep long k => decodeFirst c n sm rep long k bs

/-- What stands at a core's instruction address. -/
def instrAt (s : State) (c n : Nat) : Spelled :=
  decodeBytes c n (curBank s c).smode (seeBytes s c (curBank s c).ia.toNat 15)

/-- R151: UNDEFINED_INSTRUCTION for a sequence that byte `o` makes undefined, after the fetch checks of the
bytes up to it (R128). -/
def undefinedAt (c o : Nat) (s : State) : Out :=
  runCore s ⟨c, none, 15, some o, Tm.core [], true⟩ fun s => .ok (Done.of s 0)

/-- A core runs the instruction at its own address. -/
def runNext (c n : Nat) (s : State) : Out :=
  match instrAt s c n with
  | .instr i => exec i s
  | .undefined o => undefinedAt c o s

end Sys2Proof.Machine
end

