-- ==== Sys2Proof/Safety.lean ====
section
/-! DEFINITION. What counts as a safe run, and the terms in which statements speak of a step: the invariant of
memory, an instruction that nothing stands before, and what an instruction keeps. -/

namespace Sys2Proof

open Sys2Proof.Machine

/-- Memory is in its canonical form (log entry 8). -/
def Inv (s : State) : Prop := s.mem.wf = true

end Sys2Proof

namespace Sys2Proof.Machine

/-- R68: the context that a core runs is in its abort window, whose end cuts an instruction short (R332). -/
def inAbort (s : State) (c : Nat) : Bool :=
  match (getCore s c).running with
  | some n => (getCtx s n).base.ovr
  | none => false

/-- Nothing stands before an instruction: it has an encoding that is defined, its core is at a boundary outside an
abort window, runs in its mode and takes no event before its start (R279), its bytes may be fetched (R106) and their lines
of DRAM are held (R278). -/
def clear (s : State) (q : Run) : Bool :=
  q.wf && !inAbort s q.c && coreReady s q.c q.mode && !barred s q.c (startOf s q) && q.und.isNone && (fetchFail s q.c q.len).isNone &&
  (fetchLines s (curBank s q.c).ia.toNat q.len).all fun l => (getCore s q.c).lines.contains l

/-- What the side effects of storage specifiers add to a register (R118). -/
def sideOf (es : List Ea) (r : Reg) : Int :=
  es.foldl (fun n e => match e.upd with | some (b, k) => if b = r then n + k else n | none => n) 0

/-- A register word moved by a side effect: tag and qualifier stay (R120). -/
def sided (w : TWord) (k : Int) : TWord := ⟨w.tag, w.pay + BitVec.ofInt 64 k⟩

/-- An instruction keeps the special registers of its core, and of PS the fields AKEY, PRIV, SMODE and SIG. -/
def keepsSpecial (s t : State) (c : Nat) : Prop :=
  (curBank t c).ct = (curBank s c).ct ∧ (curBank t c).xb = (curBank s c).xb ∧
  (curBank t c).te = (curBank s c).te ∧ (curBank t c).xa = (curBank s c).xa ∧
  (curBank t c).xc = (curBank s c).xc ∧ (curBank t c).akey = (curBank s c).akey ∧
  (curBank t c).priv = (curBank s c).priv ∧ (curBank t c).smode = (curBank s c).smode ∧
  (curBank t c).sig = (curBank s c).sig

/-- It keeps FL. -/
def keepsFl (s t : State) (c : Nat) : Prop := (curBank t c).fl = (curBank s c).fl

/-- It keeps CC. -/
def keepsCc (s t : State) (c : Nat) : Prop := (curBank t c).cc = (curBank s c).cc

/-- It keeps the accumulators. -/
def keepsA (s t : State) (c : Nat) : Prop := (curBank t c).a = (curBank s c).a

/-- It keeps the F registers. -/
def keepsF (s t : State) (c : Nat) : Prop := fRegs t c = fRegs s c

/-- It stores nothing: memory and the core's posted writes stay. -/
def keepsMem (s t : State) (c : Nat) : Prop :=
  t.mem = s.mem ∧ postedWrites (getCore t c) = postedWrites (getCore s c)

/-- It keeps all that a program sees but G, FL and CC. -/
def keepsMost (s t : State) (c : Nat) : Prop := keepsSpecial s t c ∧ keepsA s t c ∧ keepsF s t c ∧ keepsMem s t c

/-- It keeps all that a program sees but G: FL and CC too. -/
def keepsRest (s t : State) (c : Nat) : Prop := keepsMost s t c ∧ keepsFl s t c ∧ keepsCc s t c

/-- It keeps every G register. -/
def keepsG (s t : State) (c : Nat) : Prop := ∀ g, peekG t c g = peekG s c g

/-- Of the G registers `rd` alone changes. -/
def onlyG (s t : State) (c : Nat) (rd : Reg) (w : TWord) : Prop :=
  ∀ g, peekG t c g = if g = rd then w else peekG s c g

/-- The G registers are those of `s`, moved by the side effects of storage specifiers. -/
def sidesG (s t : State) (c : Nat) (es : List Ea) : Prop := ∀ g, peekG t c g = sided (peekG s c g) (sideOf es g)

/-- A command leaves the cores with their contexts, the cells and memory as they were. -/
def keepsCores (s t : State) : Prop := t.cores = s.cores ∧ t.ctxs = s.ctxs ∧ t.cells = s.cells ∧ t.mem = s.mem

/-- It leaves the transaction engine and the journal unit. -/
def keepsEngine (s t : State) : Prop := t.adm = s.adm ∧ t.jrn = s.jrn

/-- It leaves the phase, ledger time, protection, the pair and what boot and the lifecycle hold. -/
def keepsDevice (s t : State) : Prop :=
  t.phase = s.phase ∧ t.time = s.time ∧ t.prot = s.prot ∧ t.pair = s.pair ∧ t.boot = s.boot

/-- It leaves the cores, memory, the engines and the device state above. -/
def keepsAll (s t : State) : Prop := keepsCores s t ∧ keepsEngine s t ∧ keepsDevice s t

/-- Of the ports it changes `p` alone, and no session. -/
def onlyPort (s t : State) (p : Nat) : Prop := (∀ j, j ≠ p → getPort t j = getPort s j) ∧ t.sessions = s.sessions

/-- Nothing waits to leave port `p`: no message, no notice, no chunk request of an offer. -/
def linkQuiet (s : State) (p : Nat) : Prop :=
  (getPort s p).waiting = [] ∧ (getPort s p).mnts = [] ∧ s.boot.serving = none

/-- It leaves the management plane, the Barometer and the power ladder. -/
def keepsPlane (s t : State) : Prop := t.mgmt = s.mgmt ∧ t.baro = s.baro ∧ t.pwr = s.pwr

/-- A counter of R533 goes up by one and saturates. -/
def counted (s t : State) (idx sub : Nat) : Prop :=
  tget 0 t.mgmt.ctr (idx * 256 + sub) = min (tget 0 s.mgmt.ctr (idx * 256 + sub) + 1) (2 ^ 64 - 1)

end Sys2Proof.Machine
end

