-- ==== Sys2Proof/Certificates/Slice0/Obligations.lean ====
section
/-! DEFINITION. The statements for the provers. In a statement about an instruction, `q` is what the decoder knows of
it, `clear s q` says that nothing stands before it, and `opened s q` is the state in which it begins: for a
whole-core instruction, `s` with the core's store buffer drained (R274). The registers of both are the same. -/

open Sys2Proof Sys2Proof.Machine

-- integer instructions

/-- R240, R241, R245: an integer operation leaves the low 64 bits of the exact result, and overflows when that lies
outside the signed range, SHL when a 1 bit is shifted out; a shift count is unsigned, and 64 or more empties the word
(SAR: fills it with the sign). R237 to R241: ADD, SUB, MUL, SHL, SHR, SAR, AND, OR and XOR in every form, on readable
FIX or RAW operands, write the result tagged FIX and set V on an untrapped overflow; storage side effects apply after
it. All else stays. R241: an overflow with TE.FXO set is FIXED_OVERFLOW at the instruction; nothing is written. R238,
R240, R241, R245: the immediate forms, on the sign-extended imm14, and NEG, with the same trap. MOV copies the source
whole, tag included, whatever the tag, in both modes (log entry 49), and changes nothing else. Where the destination is
also the base of a side effect, that the result is written first is the model's choice (log entry 121). -/
def Obligations.IntegerResult : Prop :=
  (∀ a b : Word,
    intRes .add a b = ⟨a + b, BitVec.saddOverflow a b⟩ ∧
    intRes .sub a b = ⟨a - b, BitVec.ssubOverflow a b⟩ ∧
    intRes .mul a b = ⟨a * b, BitVec.smulOverflow a b⟩ ∧
    intRes .shl a b = ⟨a <<< b, decide (b.toNat < 64 ∧ a >>> (64 - b.toNat) ≠ 0 ∨ 64 ≤ b.toNat ∧ a ≠ 0)⟩ ∧
    intRes .shr a b = ⟨a >>> b, false⟩ ∧
    intRes .sar a b = ⟨BitVec.sshiftRight' a b, false⟩ ∧
    intRes .and a b = ⟨a &&& b, false⟩ ∧
    intRes .or a b = ⟨a ||| b, false⟩ ∧
    intRes .xor a b = ⟨a ^^^ b, false⟩) ∧
  (∀ (c : Nat) (f : AluForm) (s : State) (o : AluIn) (p : IOp × Instr),
     p ∈ [(.add, .add c f), (.sub, .sub c f), (.mul, .mul c f), (.shl, .shl c f), (.shr, .shr c f),
       (.sar, .sar c f), (.and, .and c f), (.or, .or c f), (.xor, .xor c f)] →
     let q := aluRunOf p.2 c f false (iopUnit p.1) fun r => [r.val]
     let u := opened s q
     let r := intRes p.1 o.a.pay o.b.pay
     clear s q = true → aluIn u c f = .ok o → isInt o.a = true → isInt o.b = true →
     (r.ovf = true → teBit s c 0 = false) →
     ∃ t, exec p.2 s = .next t ∧
       (∀ g, peekG t c g = sided (if g = o.rd then fix r.val else peekG u c g) (sideOf o.sides g)) ∧
       (curBank t c).fl = (if r.ovf then setFld (curBank u c).fl 0 0 1 else (curBank u c).fl) ∧
       keepsCc u t c ∧ keepsMost u t c) ∧
  (∀ (c : Nat) (f : AluForm) (s : State) (o : AluIn) (p : IOp × Instr),
     p ∈ [(.add, .add c f), (.sub, .sub c f), (.mul, .mul c f), (.shl, .shl c f)] →
     let q := aluRunOf p.2 c f false (iopUnit p.1) fun r => [r.val]
     let u := opened s q
     clear s q = true → aluIn u c f = .ok o → isInt o.a = true → isInt o.b = true →
     (intRes p.1 o.a.pay o.b.pay).ovf = true → teBit s c 0 = true →
     ∃ t, exec p.2 s = .next t ∧ (getCore t c).exc = some ⟨(curBank s c).ia, 9, 0, 0, false, false⟩ ∧
       keepsG u t c ∧ keepsRest u t c) ∧
  ((∀ (c : Nat) (rd ra : Reg) (imm : BitVec 14) (s : State) (a : TWord) (p : IOp × Instr),
     p ∈ [(.add, .addi c rd ra imm), (.shl, .shli c rd ra imm)] →
     clear s (immRunOf p.2 c [ra.val] [rd.val]) = true → rdG s c ra = .ok a → isInt a = true →
     (intRes p.1 a.pay (imm.signExtend 64)).ovf = true → teBit s c 0 = true →
     ∃ t, exec p.2 s = .next t ∧ (getCore t c).exc = some ⟨(curBank s c).ia, 9, 0, 0, false, false⟩ ∧
       keepsG s t c ∧ keepsRest s t c) ∧
   (∀ (c : Nat) (f : UnForm) (s : State) (a : TWord),
     let q := unRunOf (.neg c f) c f
     let u := opened s q
     clear s q = true → rdG s c (unRegs f).2 = .ok a → isInt a = true → a.pay = 0x8000000000000000 →
     teBit s c 0 = true →
     ∃ t, exec (.neg c f) s = .next t ∧ (getCore t c).exc = some ⟨(curBank s c).ia, 9, 0, 0, false, false⟩ ∧
       keepsG u t c ∧ keepsRest u t c)) ∧
  ((∀ (c : Nat) (rd ra : Reg) (imm : BitVec 14) (s : State) (a : TWord) (p : IOp × Instr),
     p ∈ [(.add, .addi c rd ra imm), (.shl, .shli c rd ra imm), (.shr, .shri c rd ra imm),
       (.sar, .sari c rd ra imm), (.and, .andi c rd ra imm), (.or, .ori c rd ra imm), (.xor, .xori c rd ra imm)] →
     let q := immRunOf p.2 c [ra.val] [rd.val]
     let r := intRes p.1 a.pay (imm.signExtend 64)
     clear s q = true → rdG s c ra = .ok a → isInt a = true → (r.ovf = true → teBit s c 0 = false) →
     ∃ t, exec p.2 s = .next t ∧ onlyG s t c rd (fix r.val) ∧
       (curBank t c).fl = (if r.ovf then setFld (curBank s c).fl 0 0 1 else (curBank s c).fl) ∧
       keepsCc s t c ∧ keepsMost s t c) ∧
   (∀ (c : Nat) (f : UnForm) (s : State) (a : TWord),
     let q := unRunOf (.neg c f) c f
     let u := opened s q
     let big := a.pay = 0x8000000000000000
     clear s q = true → rdG s c (unRegs f).2 = .ok a → isInt a = true → (big → teBit s c 0 = false) →
     ∃ t, exec (.neg c f) s = .next t ∧ onlyG u t c (unRegs f).1 (fix (-a.pay)) ∧
       (curBank t c).fl = (if big then setFld (curBank u c).fl 0 0 1 else (curBank u c).fl) ∧
       keepsCc u t c ∧ keepsMost u t c)) ∧
  (∀ (c : Nat) (f : UnForm) (s : State) (a : TWord),
     let q := unRunOf (.mov c f) c f
     let u := opened s q
     clear s q = true → rdG s c (unRegs f).2 = .ok a →
     ∃ t, exec (.mov c f) s = .next t ∧ onlyG u t c (unRegs f).1 a ∧ keepsRest u t c)

/-- R242 to R244: DIV in every form. The quotient is truncated toward zero and the remainder has the dividend's sign;
a zero divisor with TE.FXD 0 gives quotient 0, the dividend as remainder and FL.DV; the overflow of MIN by -1 with
TE.FXO 0 gives the dividend, remainder 0 and FL.V. With TE.FXD 1, or FXO 1, it is FIXED_DIVIDE, or FIXED_OVERFLOW, and
nothing is written. Where a destination is also the base of a side effect, that the results are written first is the
model's choice (log entry 121). R246: CMP in every form and CMPI compare signed values: CC 0 equal, 1 first lower, 2 first
higher. -/
def Obligations.DivideCompare : Prop :=
  (∀ (c : Nat) (f : AluForm) (s : State) (o : AluIn),
     let q := aluRunOf (.div c f) c f true .div fun r => [r.val, r.val + 1]
     let u := opened s q
     let zero := o.b.pay = 0
     let big := o.a.pay = 0x8000000000000000 ∧ o.b.pay = 0xFFFFFFFFFFFFFFFF
     clear s q = true → aluIn u c f = .ok o → isInt o.a = true → isInt o.b = true →
     (zero → teBit s c 1 = false) → (big → teBit s c 0 = false) →
     ∃ t, exec (.div c f) s = .next t ∧
       (∀ g, peekG t c g = sided
         (if g = o.rd + 1 then (if zero then fix o.a.pay else fix (o.a.pay.srem o.b.pay))
          else if g = o.rd then (if zero then fix 0 else fix (o.a.pay.sdiv o.b.pay))
          else peekG u c g) (sideOf o.sides g)) ∧
       (curBank t c).fl = (if zero then setFld (curBank u c).fl 1 1 1
         else if big then setFld (curBank u c).fl 0 0 1 else (curBank u c).fl) ∧
       keepsCc u t c ∧ keepsMost u t c) ∧
  (∀ (c : Nat) (f : AluForm) (s : State) (o : AluIn),
     let q := aluRunOf (.div c f) c f true .div fun r => [r.val, r.val + 1]
     let u := opened s q
     let zero := o.b.pay = 0
     let big := o.a.pay = 0x8000000000000000 ∧ o.b.pay = 0xFFFFFFFFFFFFFFFF
     clear s q = true → aluIn u c f = .ok o → isInt o.a = true → isInt o.b = true →
     zero ∧ teBit s c 1 = true ∨ big ∧ teBit s c 0 = true →
     ∃ t, exec (.div c f) s = .next t ∧
       (getCore t c).exc = some ⟨(curBank s c).ia, if zero then 10 else 9, 0, 0, false, false⟩ ∧
       keepsG u t c ∧ keepsRest u t c) ∧
  ((∀ (c : Nat) (f : AluForm) (s : State) (o : AluIn),
     let q := aluRunOf (.cmp c f) c f false .alu fun _ => [64]
     let u := opened s q
     clear s q = true → aluIn u c f = .ok o → isInt o.a = true → isInt o.b = true →
     ∃ t, exec (.cmp c f) s = .next t ∧
       (curBank t c).cc = (if o.a.pay = o.b.pay then 0 else if BitVec.slt o.a.pay o.b.pay then 1 else 2) ∧
       sidesG u t c o.sides ∧ keepsFl u t c ∧ keepsMost u t c) ∧
   (∀ (c : Nat) (ra : Reg) (imm : BitVec 14) (s : State) (a : TWord),
     let q := immRunOf (.cmpi c ra imm) c [ra.val] [64]
     clear s q = true → rdG s c ra = .ok a → isInt a = true →
     ∃ t, exec (.cmpi c ra imm) s = .next t ∧
       (curBank t c).cc = (if a.pay = imm.signExtend 64 then 0 else if BitVec.slt a.pay (imm.signExtend 64) then 1 else 2) ∧
       keepsG s t c ∧ keepsFl s t c ∧ keepsMost s t c))

/-- R158: TAGR writes the tag byte of ra into rd as a FIX, in [7:0] with [63:8] zero, whatever the tag and the privilege.
R238: LDI and LDIW write their immediate as a FIX. Flags and all else stay. -/
def Obligations.WordResults : Prop :=
  (∀ (c : Nat) (rd ra : Reg) (s : State) (a : TWord),
    clear s ⟨c, some false, 3, none, Tm.alu [ra.val] [rd.val], (Instr.tagr c rd ra).wf⟩ = true →
    rdG s c ra = .ok a →
    ∃ t, exec (.tagr c rd ra) s = .next t ∧ onlyG s t c rd (fix (a.tag.setWidth 64)) ∧ keepsRest s t c) ∧
  (∀ (c : Nat) (rd : Reg) (imm : BitVec 14) (s : State),
    clear s (immRunOf (.ldi c rd imm) c [] [rd.val]) = true →
    ∃ t, exec (.ldi c rd imm) s = .next t ∧ onlyG s t c rd (fix (imm.signExtend 64)) ∧ keepsRest s t c) ∧
  (∀ (c : Nat) (rd : Reg) (imm : Word) (s : State),
    clear s ⟨c, some false, 10, none, Tm.alu [] [rd.val], (Instr.ldiw c rd imm).wf⟩ = true →
    ∃ t, exec (.ldiw c rd imm) s = .next t ∧ onlyG s t c rd (fix imm) ∧ keepsRest s t c)

/-- R97, R101, R142: MFSR delivers CT, XB, XA, XC, PS, TE (DCO and DCD as DTRAP_LOCK forces them) or FL, tagged FIX.
R95, R97, R99, R101: MTSR of a FIX or RAW word, or of any word but POISON (log entry 145) to XA and XC. XA and XC are
privileged at Ledger and Rule; a reserved bit refuses the write (R13); CT, XB, XA, XC and TE take the word, PS its CC and SIG alone, a 1 clears
its flag in FL; DTRAP_LOCK keeps DCO and DCD from being cleared. No G register changes. R124: IDENT writes its selector's
value to rd, tagged FIX, and changes nothing else; that the context number is 0 at steward entry is the model's choice
(log entry 139). -/
def Obligations.SpecialRegisters : Prop :=
  (∀ (c : Nat) (f : UnForm) (s : State),
     let k := (unRegs f).2.val
     let len := if unStorage f then 2 else 3
     let q : Run := ⟨c, some (unStorage f), len, none, Tm.core [], (Instr.mfsr c f).wf⟩
     let u := opened s q
     let b := curBank s c
     k < 7 → clear s q = true →
     ∃ t, exec (.mfsr c f) s = .next t ∧
       onlyG u t c (unRegs f).1 (fix (if k = 0 then b.ct else if k = 1 then b.xb.setWidth 64 else if k = 2 then b.xa
         else if k = 3 then b.xc else if k = 4 then b.ps
         else if k = 5 then (if s.prot.dtrap && 2 ≤ b.priv then b.te ||| 0x18 else b.te) else b.fl)) ∧
       keepsRest u t c) ∧
  (∀ (c : Nat) (f : UnForm) (s : State) (w : TWord),
     let k := (unRegs f).1.val
     let len := if unStorage f then 2 else 3
     let q : Run := ⟨c, some (unStorage f), len, none, Tm.core [(unRegs f).2.val], (Instr.mtsr c f).wf⟩
     let u := opened s q
     let b := curBank s c
     k < 7 → clear s q = true → rdG s c (unRegs f).2 = .ok w →
     isInt w = true ∨ (k = 2 ∨ k = 3) ∧ isPoison w = false → ((k = 2 ∨ k = 3) → b.priv < 2) →
     ∃ t, exec (.mtsr c f) s = .next t ∧ keepsG u t c ∧ keepsA u t c ∧ keepsF u t c ∧ keepsMem u t c ∧
       (let d := curBank t c
        if w.pay &&& ~~~(sprMask k) ≠ 0 then keepsSpecial u t c ∧ keepsFl u t c ∧ keepsCc u t c
        else d.ct = (if k = 0 then w.pay else b.ct) ∧ d.xb = (if k = 1 then w.pay.setWidth 24 else b.xb) ∧
         d.xa = (if k = 2 then w.pay else b.xa) ∧ d.xc = (if k = 3 then w.pay else b.xc) ∧
         d.cc = (if k = 4 then fld w.pay 15 14 else b.cc) ∧ d.sig = (if k = 4 then bit w.pay 13 else b.sig) ∧
         d.akey = b.akey ∧ d.priv = b.priv ∧ d.smode = b.smode ∧
         (∀ i < 64, bit d.te i = (if k = 5 then bit w.pay i ||
           (decide (i = 3 ∨ i = 4) && s.prot.dtrap && decide (2 ≤ b.priv) && bit b.te i) else bit b.te i)) ∧
         d.fl = (if k = 6 then b.fl &&& ~~~w.pay else b.fl))) ∧
  (∀ (c : Nat) (rd : Reg) (s : State) (p : Word × Instr),
     p ∈ [(BitVec.ofNat 64 (unitMask s.part.variant), .identUnitPresence c rd),
       (BitVec.ofNat 64 (identCtx c s), .identContext c rd), (BitVec.ofNat 64 (versions s), .identVersions c rd),
       (BitVec.ofNat 64 (identPairBits s), .identPair c rd)] →
     let q := identRun p.2 s c rd
     let u := opened s q
     clear s q = true → ∃ t, exec p.2 s = .next t ∧ onlyG u t c rd (fix p.1) ∧ keepsRest u t c)

-- generic and list instructions

/-- R159: TAGS. rd receives the payload of ra with the tag in rb when the word is no POISON below Supervisor, rb is FIX up
to 255 of no reserved class, nor of a pointer class or a device POISON below Supervisor, and qualifier and payload fit
the class. A pointer class below Supervisor raises PRIVILEGED_INSTRUCTION instead and writes nothing. -/
def Obligations.TagMake : Prop :=
  ∀ (c : Nat) (rd ra rb : Reg) (s : State) (a b : TWord),
    let q : Run := ⟨c, some false, 3, none, Tm.pipe [ra.val, rb.val] [rd.val], (Instr.tags c rd ra rb).wf⟩
    let low := 2 ≤ (curBank s c).priv
    let k := fld b.pay 7 4
    clear s q = true → rdG s c ra = .ok a → rdG s c rb = .ok b →
    ((low → isPoison a = false) → isFix b = true → b.pay.toNat ≤ 255 → k ≠ 12 → k ≠ 13 → k ≠ 14 →
      (low → k ∉ [4, 5, 6, 8, 10, 11] ∧ (k = 15 → fld b.pay 3 0 = 0)) →
      qualOk k (fld b.pay 3 0) = true → payOk k (fld b.pay 3 0) a.pay = true →
      ∃ t, exec (.tags c rd ra rb) s = .next t ∧ onlyG s t c rd ⟨b.pay.setWidth 8, a.pay⟩ ∧ keepsRest s t c) ∧
    (low → isPoison a = false → isFix b = true → b.pay.toNat ≤ 255 → k ∈ [4, 5, 6, 8, 10, 11] →
      ∃ t, exec (.tags c rd ra rb) s = .next t ∧
        (getCore t c).exc = some ⟨(curBank s c).ia, 2, 0, 0, false, false⟩ ∧ keepsG s t c ∧ keepsRest s t c)

/-- R166, R167, R169: ADDG, SUBG, MULG and DIVG with a FIX or DEC result: the exact result, or on an untrapped
overflow POISON x1 at this instruction and FL.GO; DIVG alone sets CC, 1 when truncation dropped a remainder, and only
when the quotient is delivered. R168, R177: an LDEC result within its limits takes 48 bytes of the allocation window:
rd receives an immutable LDEC pointer to the old top, the object's words are written there and ATOP advances by 48.
R171: a FLT result on a variant with the binary FP unit: the operation of FADD, FSUB, FMUL or FDIV on the operands as
binary64, with its conditions and those of the conversions, untrapped ones sticky in FL. -/
def Obligations.GenericResult : Prop :=
  (∀ (c : Nat) (rd ra rb : Reg) (s : State) (a b : TWord) (k : Nat) (x y : Amount) (p : GOp × Instr),
     p ∈ [(.add, .addg c rd ra rb), (.sub, .subg c rd ra rb), (.mul, .mulg c rd ra rb), (.div, .divg c rd ra rb)] →
     let q := rrRun p.2 c [ra.val, rb.val]
     let u := opened s q
     let r := exactOf p.1 x y
     let big := overflowInfo k r.1
     clear s q = true → rdG u c ra = .ok a → rdG u c rb = .ok b → isPoison a = false → isPoison b = false →
     isAmount a = true → resultClass (tagClass a) (tagClass b) = some k → (k = 1 ∨ k = 2) →
     amountOf u c 1 a = .ok x → amountOf u c 2 b = .ok y → (p.1 = .div → y.v ≠ 0) →
     (big.isSome → teBit s c 2 = false) →
     ∃ t, exec p.2 s = .next t ∧
       onlyG u t c rd (if big.isSome then poisonHere s c 1 else if k = 1 then fix (BitVec.ofInt 64 r.1.v)
         else ⟨BitVec.ofNat 8 (0x20 + r.1.scale), decPay r.1.v⟩) ∧
       (curBank t c).cc = (if p.1 = .div ∧ big = none then b2n r.2 else (curBank u c).cc) ∧
       (curBank t c).fl = (if big.isSome then setFld (curBank u c).fl 4 4 1 else (curBank u c).fl) ∧
       keepsMost u t c) ∧
  (∀ (c : Nat) (rd ra rb : Reg) (s : State) (a b : TWord) (x y : Amount) (top : Nat) (p : GOp × Instr),
     p ∈ [(.add, .addg c rd ra rb), (.sub, .subg c rd ra rb), (.mul, .mulg c rd ra rb), (.div, .divg c rd ra rb)] →
     let q := rrRun p.2 c [ra.val, rb.val]
     let u := opened s q
     let r := exactOf p.1 x y
     let o := ldecObject r.1
     let ws : List PWrite := [⟨top, slice o 0 8, 0x10, false⟩, ⟨top + 8, o.drop 8, 0, false⟩]
     clear s q = true → rdG u c ra = .ok a → rdG u c rb = .ok b → isPoison a = false → isPoison b = false →
     isAmount a = true → resultClass (tagClass a) (tagClass b) = some 11 →
     ldecCheck u c 1 a = .ok () → ldecCheck u c 2 b = .ok () → needFar u c (ldecRange a ++ ldecRange b) = .ok () →
     amountOf u c 1 a = .ok x → amountOf u c 2 b = .ok y → (p.1 = .div → y.v ≠ 0) →
     allocCheck u c 48 = .ok top → overflowInfo 11 r.1 = none →
     let v := allocate u c 48 top ws
     ∃ t, exec p.2 s = .next t ∧ onlyG v t c rd (ptr 11 true top) ∧
       (curBank t c).cc = (if p.1 = .div then b2n r.2 else (curBank v c).cc) ∧ keepsFl v t c ∧ keepsMost v t c ∧
       heapWord t (c / 4) (atopIx c) = BitVec.ofNat 64 (top + 48)) ∧
  (∀ (c : Nat) (rd ra rb : Reg) (s : State) (a b : TWord) (p : GOp × FOp × Instr),
     p ∈ [(.add, .add, .addg c rd ra rb), (.sub, .sub, .subg c rd ra rb), (.mul, .mul, .mulg c rd ra rb),
       (.div, .div, .divg c rd ra rb)] →
     let q := rrRun p.2.2 c [ra.val, rb.val]
     let u := opened s q
     let x := fltOperand (roundMode s c) a
     let y := fltOperand (roundMode s c) b
     let r := fpRes p.2.1 (roundMode s c) x.val y.val
     let k := condOr (condOr x.cond y.cond) r.cond
     clear s q = true → rdG u c ra = .ok a → rdG u c rb = .ok b → isPoison a = false → isPoison b = false →
     isAmount a = true → resultClass (tagClass a) (tagClass b) = some 3 → hasFp s = true → fpTrap s c k = none →
     ∃ t, exec p.2.2 s = .next t ∧ onlyG u t c rd ⟨0x30, r.val⟩ ∧
       (curBank t c).fl = (curBank u c).fl ||| BitVec.ofNat 64 k.bits ∧ keepsCc u t c ∧ keepsMost u t c)

/-- R172, R173: CMPG of amounts compares exact values whatever the scales, those of LDEC objects where they have been
forwarded to; of pointers, addresses after one level of forwarding, with EVE 0 their own; of words of the same other class
(symbols, NIL, RAW), the words whole; characters by scalar value; any other pair of classes without POISON and FLT gives 3,
or DECIMAL_DATA for an invalid DEC. It changes CC alone. That an LDEC of such a pair is not read (log entry 144), and
which word a CODE pointer compares by (112), are the model's choices. -/
def Obligations.GenericCompare : Prop :=
  ∀ (c : Nat) (ra rb : Reg) (s : State) (a b : TWord),
    let q := rrRun (.cmpg c ra rb) c [ra.val, rb.val]
    let u := opened s q
    let ka := tagClass a
    let kb := tagClass b
    let sets (v : Nat) : Prop := ∃ t, exec (.cmpg c ra rb) s = .next t ∧ (curBank t c).cc = v ∧
      keepsG u t c ∧ keepsFl u t c ∧ keepsMost u t c
    clear s q = true → rdG u c ra = .ok a → rdG u c rb = .ok b → isPoison a = false → isPoison b = false →
    (∀ x y : Amount, ka ∈ [1, 2, 11] → kb ∈ [1, 2, 11] →
      let all := cmpReads u c 1 a ++ cmpReads u c 2 b
      cmpCheck u c 1 a all = .ok () → cmpCheck u c 2 b all = .ok () → needFar u c all = .ok () →
      amountOf u c 1 (cmpObj u c a) = .ok x → amountOf u c 2 (cmpObj u c b) = .ok y →
      sets (if x.v * 10 ^ y.scale = y.v * 10 ^ x.scale then 0
        else if x.v * 10 ^ y.scale < y.v * 10 ^ x.scale then 1 else 2)) ∧
    (isPtr a = true → isPtr b = true → ka ≠ 11 ∨ kb ≠ 11 → fwdCheck u c 1 a = .ok () → fwdCheck u c 2 b = .ok () →
      needFar u c (fwdRange u c a ++ fwdRange u c b) = .ok () →
      sets (if cmpAddr u c a = cmpAddr u c b then 0 else 3) ∧
      (eveOn u c = false → sets (if fld a.pay 39 0 = fld b.pay 39 0 then 0 else 3))) ∧
    (ka = 7 → kb = 7 → fld a.tag 3 0 = 1 → fld b.tag 3 0 = 1 →
      sets (if fld a.pay 20 0 = fld b.pay 20 0 then 0 else if fld a.pay 20 0 < fld b.pay 20 0 then 1 else 2)) ∧
    (ka = kb → (ka = 0 ∨ ka = 9 ∨ ka = 7 ∧ fld a.tag 3 0 = 0 ∧ fld b.tag 3 0 = 0) → sets (if a = b then 0 else 3)) ∧
    (ka ≠ kb → ka ≠ 3 → kb ≠ 3 → ¬(isPtr a = true ∧ isPtr b = true) →
      ¬(ka ∈ [1, 2, 11] ∧ kb ∈ [1, 2, 11]) →
      (decValid 1 a = .ok () → decValid 2 b = .ok () → sets 3) ∧
      (ka = 2 ∧ decVal a.pay = none ∨ kb = 2 ∧ decVal b.pay = none → ∃ t, exec (.cmpg c ra rb) s = .next t ∧
        (getCore t c).exc = some ⟨(curBank s c).ia, 0x0B, if ka = 2 then 1 else 2, 0, false, false⟩ ∧
        keepsG u t c ∧ keepsRest u t c))

/-- R174, R177: CONS writes the two words to the allocation window of its core, whole, gives rd a mutable CONS pointer
of generation 0 to them and advances ATOP by 16. R175, R185: LDP, HEAD and TAIL of a readable slot whose word is not
FWD and passes the read barrier deliver the word whole; HEAD and TAIL of nil deliver nil. All else stays. R176, R181,
R183: STP, SETH and SETT store the word of their source register whole in the slot, and mark the card that `cardOf`
names, when the slot and the card byte may be written. Every register stays. That the slot address tested is the
physical one (log entry 141) and what a mark does to a POISON word (127) are the model's choices. -/
def Obligations.ListCells : Prop :=
  (∀ (c : Nat) (rd ra rb : Reg) (s : State) (h w : TWord) (top : Nat),
     let q := rrRun (.cons c rd ra rb) c [ra.val, rb.val]
     let u := opened s q
     clear s q = true → rdG u c ra = .ok h → rdG u c rb = .ok w →
     wordBarrier u c h false = .ok () → wordBarrier u c w false = .ok () → allocCheck u c 16 = .ok top →
     let v := allocate u c 16 top [⟨top, wordBytes h.pay, h.tag, false⟩, ⟨top + 8, wordBytes w.pay, w.tag, false⟩]
     ∃ t, exec (.cons c rd ra rb) s = .next t ∧ onlyG v t c rd ⟨0x40, BitVec.ofNat 64 (top % 2 ^ 40)⟩ ∧
       keepsRest v t c ∧ heapWord t (c / 4) (atopIx c) = BitVec.ofNat 64 (top + 16)) ∧
  ((∀ (c : Nat) (rd : Reg) (m : RMem) (s : State) (e : Ea),
     let q := ldpRun (.ldp c rd m) c m []
     let u := opened s q
     let w := slotWord u c e.a
     clear s q = true → eaReg u c 1 false m = .ok e → e.a % 8 = 0 → checkBytes u c .read 1 e.a 8 = .ok () →
     needFar u c [(e.a, 8)] = .ok () → tagClass w ≠ 8 → wordBarrier u c w false = .ok () →
     ∃ t, exec (.ldp c rd m) s = .next t ∧ onlyG u t c rd w ∧ keepsRest u t c) ∧
   (∀ (c : Nat) (rd ra : Reg) (s : State) (r : TWord) (p : Nat × Instr),
     p ∈ [(0, .head c rd ra), (8, .tail c rd ra)] →
     let q := rrRun p.2 c [ra.val]
     let u := opened s q
     clear s q = true → rdG u c ra = .ok r →
     (r = nil → ∃ t, exec p.2 s = .next t ∧ onlyG u t c rd nil ∧ keepsRest u t c) ∧
     (let a := fld r.pay 39 0 + p.1
      let w := slotWord u c a
      tagClass r = 4 → a < 2 ^ 40 → a % 8 = 0 → baseBarrier u c (some r) = .ok () →
      checkBytes u c .read 1 a 8 = .ok () → needFar u c [(a, 8)] = .ok () → tagClass w ≠ 8 →
      wordBarrier u c w false = .ok () →
      ∃ t, exec p.2 s = .next t ∧ onlyG u t c rd w ∧ keepsRest u t c))) ∧
  ((∀ (c : Nat) (rd : Reg) (m : RMem) (s : State) (e : Ea) (w : TWord),
     let q := ldpRun (.stp c rd m) c m [rd.val]
     let u := opened s q
     let k := cardOf u c e.a (containerGen e.src) w
     clear s q = true → rdG u c rd = .ok w → eaReg u c 1 true m = .ok e → e.a % 8 = 0 →
     checkBytes u c .write 1 e.a 8 = .ok () → wordBarrier u c w false = .ok () → cardCheck u c k = .ok () →
     let v := cardMark (slotWrite u c e.a w) c k
     ∃ t, exec (.stp c rd m) s = .next t ∧ keepsG v t c ∧ keepsRest v t c) ∧
   (∀ (c : Nat) (ra rb : Reg) (s : State) (r w : TWord) (p : Nat × Instr),
     p ∈ [(0, .seth c ra rb), (8, .sett c ra rb)] →
     let q := rrRun p.2 c [ra.val] [rb.val]
     let u := opened s q
     let a := fld r.pay 39 0 + p.1
     let k := cardOf u c a (genOf r) w
     clear s q = true → rdG u c ra = .ok r → rdG u c rb = .ok w → tagClass r = 4 → isImm r = false → a < 2 ^ 40 →
     a % 8 = 0 → baseBarrier u c (some r) = .ok () → checkBytes u c .write 1 a 8 = .ok () →
     wordBarrier u c w false = .ok () → cardCheck u c k = .ok () →
     let v := cardMark (slotWrite u c a w) c k
     ∃ t, exec p.2 s = .next t ∧ keepsG v t c ∧ keepsRest v t c))

-- loads and stores

/-- R92: what a load delivers where its bytes may be read and no POISON or barrier stops it: an aligned 8-byte load
the word whole, an unaligned one the bytes tagged RAW, a shorter one the bytes zero-extended, tagged FIX. R92, R118:
LD1 to LD8 and LDF, in every form but a register-mode load from DRAM by a ledger core, write what they load to their
register; storage side effects apply; all else stays. Where the register is also the base of a side effect, that it is
written first is the model's choice (log entry 121). -/
def Obligations.Loads : Prop :=
  (∀ (s : State) (c size a : Nat),
     size ∈ [1, 2, 4, 8] → isCtl a = false → checkBytes s c .read 1 a size = .ok () →
     (size = 8 → a % 8 = 0 → wordBarrier s c (wholeWord s c a) true = .ok () →
       loadWord s c size a = .ok (wholeWord s c a)) ∧
     (∀ bs, ¬(size = 8 ∧ a % 8 = 0) → wholeBytes s c a size = .ok bs →
       loadWord s c size a = .ok ⟨if size = 8 then 0 else 0x10, BitVec.ofNat 64 (beNat bs)⟩)) ∧
  ((∀ (c : Nat) (rd : Reg) (m : Mem) (s : State) (e : Ea) (w : TWord) (p : Nat × Instr),
     p ∈ [(1, .ld1 c rd m), (2, .ld2 c rd m), (4, .ld4 c rd m), (8, .ld8 c rd m)] →
     let q := rmRun p.2 c m .load [] [rd.val]
     let u := opened s q
     clear s q = true → eaOf u c 1 p.1 false m = .ok e → farHere u m e.a = false →
     checkBytes u c .read 1 e.a p.1 = .ok () → needFar u c [(e.a, p.1)] = .ok () → loadWord u c p.1 e.a = .ok w →
     ∃ t, exec p.2 s = .next t ∧
       (∀ g, peekG t c g = sided (if g = rd then w else peekG u c g) (sideOf [e] g)) ∧ keepsRest u t c) ∧
   (∀ (c : Nat) (fd : Reg) (m : Mem) (s : State) (e : Ea) (w : Word),
     let q := rmRun (.ldf c fd m) c m .load [] [32 + fd.val]
     let u := opened s q
     clear s q = true → hasFp s = true → eaOf u c 1 8 false m = .ok e → farHere u m e.a = false →
     checkBytes u c .read 1 e.a 8 = .ok () → needFar u c [(e.a, 8)] = .ok () → loadFlt u c e.a = .ok w →
     ∃ t, exec (.ldf c fd m) s = .next t ∧ sidesG u t c [e] ∧ (∀ g : Reg, (fRegs t c)[g] = if g = fd then w else (fRegs u c)[g]) ∧
       keepsSpecial u t c ∧ keepsA u t c ∧ keepsMem u t c ∧ keepsFl u t c ∧ keepsCc u t c))

/-- R92, R93, R117, R179, R181: ST1 to ST8 and STF, in every form but a register-mode store to DRAM by a ledger core:
when no check refuses it, the store that `storeMake` makes is the only change but the storage side effects. What is
written: the low bytes of the register, with its tag for an aligned ST8, FLT for STF, RAW otherwise. R88, R92, R274:
what a store outside the heap-control blocks and the control space leaves of memory, once it gets there: its bytes,
big-endian from its address, and its tag on every word touched; every other byte and every other word's tag is as
before. -/
def Obligations.Stores : Prop :=
  ((∀ (c : Nat) (rd : Reg) (m : Mem) (s : State) (e : Ea) (w : TWord) (o : StoreOut) (p : Nat × Instr),
     p ∈ [(1, .st1 c rd m), (2, .st2 c rd m), (4, .st4 c rd m), (8, .st8 c rd m)] →
     let q := rmRun p.2 c m .store [rd.val] []
     let u := opened s q
     clear s q = true → rdG u c rd = .ok w → eaOf u c 1 p.1 true m = .ok e → storeReg p.1 e.a w = .ok () →
     farHere u m e.a = false → (p.1 = 8 ∧ e.a % 8 = 0 ∨ needFar u c [(e.a, p.1)] = .ok ()) →
     storeOut u c p.1 w e.a e.src = .ok o →
     let v := storeMake u c m o
     ∃ t, exec p.2 s = .next t ∧ sidesG v t c [e] ∧ keepsRest v t c ∧
       o.w.a = e.a ∧ o.w.bs = beBytes p.1 (w.pay.toNat % 256 ^ p.1) ∧
       o.w.tag = (if p.1 = 8 ∧ e.a % 8 = 0 then w.tag else 0)) ∧
   (∀ (c : Nat) (fd : Reg) (m : Mem) (s : State) (e : Ea) (w : Word),
     let q := rmRun (.stf c fd m) c m .store [32 + fd.val] []
     let u := opened s q
     clear s q = true → hasFp s = true → rdF u c fd = .ok w → eaOf u c 1 8 true m = .ok e → e.a % 8 = 0 →
     farHere u m e.a = false → checkBytes u c .write 1 e.a 8 = .ok () →
     let v := storeMake u c m ⟨⟨e.a, wordBytes w, 0x30, false⟩, none⟩
     ∃ t, exec (.stf c fd m) s = .next t ∧ sidesG v t c [e] ∧ keepsRest v t c)) ∧
  (∀ (s : State) (w : PWrite), w.a < 0xFF00000000 → touchesHeap w = false →
     (∀ i (h : i < w.bs.length), rdByte (applyWrite s w).mem (w.a + i) = w.bs[i] ∧
       rdTag (applyWrite s w).mem (w.a + i) = w.tag) ∧
     (∀ b, b < w.a ∨ w.a + w.bs.length ≤ b → rdByte (applyWrite s w).mem b = rdByte s.mem b) ∧
     (∀ b, (∀ i < w.bs.length, (w.a + i) / 8 ≠ b / 8) → rdTag (applyWrite s w).mem b = rdTag s.mem b) ∧
     (applyWrite s w).cells = s.cells)

/-- R179: a store that touches a heap-control block updates the block and the hardware copy only as an aligned ST8 of
a FIX or RAW word that sets no reserved bit or encoding and meets the zero conditions of the maps; any other is refused,
counted, and changes nothing else. -/
def Obligations.HeapControl : Prop :=
  ∀ (s : State) (w : PWrite), w.a < 0xFF00000000 →
    let v : Word := BitVec.ofNat 64 (beNat w.bs)
    let fits := fun i : Nat => w.st8 = true ∧ w.a % 8 = 0 ∧ (w.tag = 0 ∨ w.tag = 0x10) ∧ heapOk i v = true
    (∀ n i, w.bs.length = 8 → heapAt w.a = some (n, i) → fits i →
      heapWord (applyWrite s w) n i = v ∧
      (∀ j < 8, some (rdByte (applyWrite s w).mem (w.a + j)) = w.bs[j]?) ∧
      (∀ b, b < w.a ∨ w.a + 8 ≤ b → rdByte (applyWrite s w).mem b = rdByte s.mem b) ∧
      (∀ m j, (m, j) ≠ (n, i) → heapWord (applyWrite s w) m j = heapWord s m j)) ∧
    ((∃ j < w.bs.length, heapAt (w.a + j) ≠ none) → (∀ n i, heapAt w.a = some (n, i) → ¬fits i) →
      applyWrite s w = refuse s)

/-- R275, R277: a register-mode LD1 to LD8, LDF, ST1 to ST8 or STF of DRAM, while the queue has room for its words
before an event comes, issues and awaits its verdict, with the exception that the verdict will raise if a check refuses
it. No register, flag or memory changes until then, but the card that a store marks: that it is checked and marked at
issue is the model's choice (log entries 46, 47). R275, R327, R91: FAR_VERDICT of an access that passed its checks retires
it: it joins the far queue, a load with its register pending, and the core goes on at the next instruction.
FAR_DATA_ARRIVAL then gives the oldest load's data, the word read when it was issued (log entry 110), to its register,
which is no longer pending. An uncorrectable error gives an aligned LD8 POISON x4; a load that uses the word as a value
(R163) leaves its register, and its level owes POISON_USE, reason 4, at its next sampling point (log entry 110).
FAR_WRITE_ACKNOWLEDGEMENT makes the oldest posted write in memory, and R186: a heal only if its slot still holds the word
it was for. STORE_BUFFER_DRAIN makes the oldest entry of the store buffer. -/
def Obligations.FarAccess : Prop :=
  ((∀ (c : Nat) (rd : Reg) (m : Mem) (s : State) (e : Ea) (p : Nat × Instr),
     p ∈ [(1, .ld1 c rd m), (2, .ld2 c rd m), (4, .ld4 c rd m), (8, .ld8 c rd m)] →
     let q := rmRun p.2 c m .load [] [rd.val]
     let u := opened s q
     clear s q = true → eaOf u c 1 p.1 false m = .ok e → farHere u m e.a = true →
     farWords (getCore u c) + wordSpan e.a p.1 ≤ 32 →
     barred u c (farFree (wordSpan e.a p.1) (farStarts (getCore u c))) = false →
     (∀ w, loadWord u c p.1 e.a = .ok w → ∃ t v, exec p.2 s = .next t ∧ (getCore t c).verdict = some v ∧
       v.acc.kind = .loadG (ctxLevel u c).1 (ctxLevel u c).2 (some rd) e.a p.1 w ∧ v.acc.words = wordSpan e.a p.1 ∧
       v.fail = none ∧ v.next = (curBank s c).ia + BitVec.ofNat 40 q.len ∧ keepsG u t c ∧ keepsRest u t c) ∧
     (∀ x, loadWord u c p.1 e.a = .error (.exc x) → ∃ t v, exec p.2 s = .next t ∧ (getCore t c).verdict = some v ∧
       v.fail = some ⟨(curBank s c).ia, x.code, x.info, x.detail, x.isPair, x.half⟩ ∧ keepsG u t c ∧ keepsRest u t c)) ∧
   (∀ (c : Nat) (rd : Reg) (m : Mem) (s : State) (e : Ea) (w : TWord) (o : StoreOut) (p : Nat × Instr),
     p ∈ [(1, .st1 c rd m), (2, .st2 c rd m), (4, .st4 c rd m), (8, .st8 c rd m)] →
     let q := rmRun p.2 c m .store [rd.val] []
     let u := opened s q
     clear s q = true → rdG u c rd = .ok w → eaOf u c 1 p.1 true m = .ok e → storeReg p.1 e.a w = .ok () →
     farHere u m e.a = true → farWords (getCore u c) + wordSpan e.a p.1 ≤ 32 →
     barred u c (farFree (wordSpan e.a p.1) (farStarts (getCore u c))) = false →
     storeOut u c p.1 w e.a e.src = .ok o →
     let v := cardMark u c o.card
     let b : PWrite := ⟨e.a, beBytes p.1 (w.pay.toNat % 256 ^ p.1), if p.1 = 8 ∧ e.a % 8 = 0 then w.tag else 0, false⟩
     ∃ t x, exec p.2 s = .next t ∧ (getCore t c).verdict = some x ∧ x.fail = none ∧
       x.acc.kind = .store (match o.card with | some k => markOver k b | none => b) ∧
       keepsG v t c ∧ keepsRest v t c) ∧
   (∀ (c : Nat) (fd : Reg) (m : Mem) (s : State) (e : Ea) (w : Word),
     (let q := rmRun (.ldf c fd m) c m .load [] [32 + fd.val]
      let u := opened s q
      clear s q = true → hasFp s = true → eaOf u c 1 8 false m = .ok e → farHere u m e.a = true →
      farWords (getCore u c) + wordSpan e.a 8 ≤ 32 →
      barred u c (farFree (wordSpan e.a 8) (farStarts (getCore u c))) = false → ∀ x, loadFlt u c e.a = .ok x →
      ∃ t v, exec (.ldf c fd m) s = .next t ∧ (getCore t c).verdict = some v ∧ v.fail = none ∧
        v.acc.kind = .loadF (ctxLevel u c).1 (ctxLevel u c).2 (some fd) e.a x ∧ keepsG u t c ∧ keepsRest u t c) ∧
     (let q := rmRun (.stf c fd m) c m .store [32 + fd.val] []
      let u := opened s q
      clear s q = true → hasFp s = true → rdF u c fd = .ok w → eaOf u c 1 8 true m = .ok e → e.a % 8 = 0 →
      farHere u m e.a = true → farWords (getCore u c) < 32 →
      barred u c (farFree 1 (farStarts (getCore u c))) = false → checkBytes u c .write 1 e.a 8 = .ok () →
      ∃ t v, exec (.stf c fd m) s = .next t ∧ (getCore t c).verdict = some v ∧ v.fail = none ∧
        v.acc.kind = .store ⟨e.a, wordBytes w, 0x30, false⟩ ∧ keepsG u t c ∧ keepsRest u t c))) ∧
  ((∀ (c n : Nat) (s : State) (w : FarWait) (r : Reg) (a size : Nat) (v : TWord),
     coreUp s c = true → c < 256 → (getCore s c).running = some n → (getCore s c).verdict = some w → w.fail = none →
     w.acc.kind = .loadG n (getCtx s n).level (some r) a size v →
     ∃ t, exec (.farVerdict c) s = .next t ∧ (getCore t c).verdict = none ∧ (curBank t c).ia = w.next ∧
       bit (curBank t c).pend r.val = true ∧ (getCore t c).far.getLast? = some w.acc ∧ keepsG s t c ∧
       keepsSpecial s t c ∧ keepsA s t c ∧ keepsF s t c ∧ t.mem = s.mem) ∧
   (∀ (c n l : Nat) (s : State) (f : FarAcc) (r : Reg) (a size : Nat) (w : TWord) (rest : List FarAcc) (err : DramErr),
     let x := getCtx s n
     let b := recBank s c n l
     let used := err = .double ∧ ¬(size = 8 ∧ a % 8 = 0)
     coreUp s c = true → (getCore s c).far = f :: rest → f.kind = .loadG n l (some r) a size w →
     n = ownRec ∨ l = 0 ∨ l = 1 ∧ x.exc.isSome ∨ 2 ≤ l ∧ l ≤ x.gates.length + 1 →
     ∃ t, exec (.farDataArrival c err) s = .next t ∧ (getCore t c).far = rest ∧
       (let d := recBank t c n l
        d.g = (if used then b.g else b.g.set r (if err = .double then ⟨0xF4, BitVec.ofNat 64 (a / 8 * 8)⟩ else w)) ∧
        bit d.pend r.val = false) ∧ t.mem = s.mem ∧
       (n ≠ ownRec → (getCtx t n).late = x.late ++ (if used then [(l, a, f.start / 500 + 640)] else [])) ∧
       (getCore t c).exc = (if used ∧ n = ownRec then some ((getCore s c).exc.getD (poisonPend b.ia a))
         else (getCore s c).exc)) ∧
   (∀ (c : Nat) (s : State) (f : FarAcc) (w : PWrite) (rest : List FarAcc),
     coreUp s c = true → (getCore s c).far = f :: rest → f.kind = .store w →
     ∃ t, exec (.farWriteAcknowledgement c) s = .next t ∧ (getCore t c).far = rest ∧ t.mem = (applyWrite s w).mem ∧
       keepsG s t c) ∧
   (∀ (c : Nat) (s : State) (f : FarAcc) (old : TWord) (k : Option (Nat × Nat)) (w : PWrite) (rest : List FarAcc),
     coreUp s c = true → (getCore s c).far = f :: rest → f.kind = .heal old k w →
     ∃ t, exec (.farWriteAcknowledgement c) s = .next t ∧
       t.mem = (if rdWord s.mem w.a = old then (cardMark (applyWrite s w) c k).mem else s.mem) ∧ keepsG s t c) ∧
   (∀ (c : Nat) (s : State) (w : PWrite) (rest : List PWrite),
     coreUp s c = true → (getCore s c).sb = w :: rest →
     ∃ t, exec (.storeBufferDrain c) s = .next t ∧ (getCore t c).sb = rest ∧ t.mem = (applyWrite s w).mem ∧ keepsG s t c))

/-- R352 to R354: LDM and STM of a mask of readable (writable) aligned words outside the heap-control block and the
control space, for STM words that mark no card: register k and the word at the address plus 8k move, the mask register ends
as FIX 0, a mask of zero as it was, and the base moves as its specifier says (R118). R276: a word of DRAM is read with its
register pending, or posted as a write. Flags and all else stay. -/
def Obligations.MultipleMove : Prop :=
  ∀ (c : Nat) (rd : Reg) (m : Mem) (s : State) (e : Ea) (mask : Nat) (w : TWord),
    let ql := multiRun (.ldm c rd m) c rd m []
    let qs := multiRun (.stm c rd m) c rd m (stmSrcs s c rd)
    let moves (k : Nat) := mask / 2 ^ k % 2 = 1
    rdG s c rd = .ok w → maskOf m w = .ok mask → e.a % 8 = 0 →
    (∀ k < 32, moves k → isCtl (e.a + 8 * k) = false) →
    (let u := opened s ql
     clear s ql = true → eaOf u c 1 8 false m = .ok e → maskBad true rd m mask = false →
     (∀ k < 32, moves k → loadWord u c 8 (e.a + 8 * k) = .ok (wholeWord u c (e.a + 8 * k))) →
     ∃ t, exec (.ldm c rd m) s = .next t ∧
       (∀ g : Reg, moves g.val → isDram u (e.a + 8 * g.val) = true → bit (curBank t c).pend g.val = true ∧
         ∃ f ∈ (getCore t c).far, f.kind = .loadG (ctxLevel u c).1 (ctxLevel u c).2 (some g) (e.a + 8 * g.val) 8
           (wholeWord u c (e.a + 8 * g.val))) ∧
       (∀ g : Reg, (moves g.val → isDram u (e.a + 8 * g.val) = false) →
         peekG t c g = sided (if g = rd then (if mask = 0 then w else fix 0)
           else if moves g.val then wholeWord u c (e.a + 8 * g.val) else peekG u c g) (sideOf [e] g)) ∧
       keepsRest u t c) ∧
    (let u := opened s qs
     let p (k : Nat) := physOf (cellOf c) (e.a + 8 * k)
     let cell (k : Nat) := moves k ∧ isDram u (p k) = false
     clear s qs = true → eaOf u c 1 8 true m = .ok e → maskBad false rd m mask = false →
     (∀ k : Reg, moves k.val → bit (curBank s c).pend k.val = false ∧ wordBarrier u c (peekG u c k) false = .ok () ∧
       cardOf u c (e.a + 8 * k.val) (containerGen e.src) (peekG u c k) = none ∧
       checkBytes u c .write 1 (e.a + 8 * k.val) 8 = .ok () ∧ touchesHeap ⟨p k.val, wordBytes 0, 0, false⟩ = false) →
     ∃ t, exec (.stm c rd m) s = .next t ∧
       (∀ g : Reg, peekG t c g = sided (if g = rd ∧ mask ≠ 0 then fix 0 else peekG u c g) (sideOf [e] g)) ∧
       (∀ k : Reg, cell k.val → rdWord t.mem (p k.val) = peekG u c k) ∧
       (∀ k : Reg, moves k.val → isDram u (p k.val) = true →
         ∃ f ∈ (getCore t c).far, f.kind = .store ⟨p k.val, wordBytes (peekG u c k).pay, (peekG u c k).tag, false⟩) ∧
       (∀ b, (∀ k < 32, cell k → b < p k ∨ p k + 8 ≤ b) → rdByte t.mem b = rdByte u.mem b) ∧
       keepsSpecial u t c ∧ keepsA u t c ∧ keepsF u t c ∧ keepsFl u t c ∧ keepsCc u t c)

-- decimal instructions

/-- R157, R191 to R195, R199: what a decimal result's field, DEC payload or accumulator is written as reads back as
the value, in each format, at every length and with every sign code. -/
def Obligations.DecimalFormats : Prop :=
  (∀ (f : DFmt) (l sg m : Nat), fmtLenOk f l = true → 10 ≤ sg → sg < 16 → m < 10 ^ fmtDigits f l →
    (fmtBytes f l sg m).length = l ∧
    fmtVal f (fmtBytes f l sg m) = .ok (if sg = 11 ∨ sg = 13 then -(m : Int) else m)) ∧
  (∀ v : Int, v.natAbs < 10 ^ 18 → decVal (decPay v) = some v) ∧
  (∀ v : Int, v.natAbs < 10 ^ 63 → accVal (accOf (signOf v) v.natAbs) = v)

/-- R204, R205: a decimal result of `v` in a field of n digits. When it fits, CC is 0 for zero, 1 for minus, 2 for
plus; when it does not, DECIMAL_OVERFLOW with TE.DCO 1, else its low n digits, CC 3 and FL.DO. The sign code is xC or
xD, and a zero is plus. An accumulator holds 63 digits. R210, R211: the units of a long DMUL, one per digit of the
third operand from the least significant, together give the product; those of a long DDIV, one per quotient digit from
the most significant, the quotient. -/
def Obligations.DecimalValues : Prop :=
  (∀ (s : State) (c : Nat) (f : DFmt) (l a : Nat) (k : Fin 4) (v : Int),
     let sg (n : Nat) := if v < 0 ∧ v.natAbs % 10 ^ n ≠ 0 then 13 else 12
     let cc := if v = 0 then 0 else if v < 0 then 1 else 2
     let put (t : State) := wholeWrite t c ⟨a, fmtBytes f l (sg (fmtDigits f l)) (v.natAbs % 10 ^ fmtDigits f l), 0, false⟩
     let acc (t : State) := wrA t c k (accOf (sg 63) (v.natAbs % 10 ^ 63))
     (v.natAbs < 10 ^ fmtDigits f l → decResult s c f l a v = .ok (put (setCc s c cc))) ∧
     (10 ^ fmtDigits f l ≤ v.natAbs → decResult s c f l a v =
       if teBit s c 3 then raise 0x0C 1 0 else .ok (put (setFl (setCc s c 3) c 2))) ∧
     (v.natAbs < 10 ^ 63 → accResult s c k v = .ok (acc (setCc s c cc))) ∧
     (10 ^ 63 ≤ v.natAbs → accResult s c k v =
       if teBit s c 3 then raise 0x0C 1 0 else .ok (acc (setFl (setCc s c 3) c 2)))) ∧
  (∀ n a b : Nat,
     (b < 10 ^ n → (List.range n).foldl (fun cur k => longNext .mul n k a b cur) 0 = a * b) ∧
     (a < 10 ^ n → b ≠ 0 → (List.range n).foldl (fun cur k => longNext .div n k a b cur) 0 = a / b))

/-- R204 to R208: DADD, DSUB, DMUL, DDIV and DCMP on two packed fields that may be accessed and hold valid data. The
result goes to the first field as `decResult` writes it; DDIV leaves the quotient, truncated, in its first L1 - L2
bytes and the remainder, with the dividend's sign, in its last L2; a zero divisor with TE.DCD 0 writes nothing and
gives CC 3 and FL.DD; DCMP sets CC alone. R207, R208: the three-operand forms that are not long, and the accumulator
forms, of the same instructions. -/
def Obligations.DecimalArithmetic : Prop :=
  (∀ (c l1 l2 : Nat) (m1 m2 : Mem) (units : Nat) (s : State) (e1 e2 : Ea) (a b : Int) (p : DOp × Instr),
     let f := DForm.mm l1 l2 m1 m2
     p ∈ [(.add, .dadd c f), (.sub, .dsub c f), (.mul, .dmul c f units), (.div, .ddiv c f units), (.cmp, .dcmp c f)] →
     let q := decRunOf p.2 c p.1 f
     let u := opened s q
     let o1 : Opd := ⟨1, .packed, l1, m1, if p.1 = .cmp then .read else .both⟩
     let o2 : Opd := ⟨2, .packed, l2, m2, .read⟩
     clear s q = true → opdCheck u c [o1, o2] = .ok [e1, e2] → opdVal u c o1 e1 = .ok a → opdVal u c o2 e2 = .ok b →
     (∀ v, (p.1 = .add ∧ decResult u c .packed l1 e1.a (a + b) = .ok v ∨
         p.1 = .sub ∧ decResult u c .packed l1 e1.a (a - b) = .ok v ∨
         p.1 = .mul ∧ decResult u c .packed l1 e1.a (a * b) = .ok v) →
       ∃ t, exec p.2 s = .next t ∧ sidesG v t c [e1, e2] ∧ keepsRest v t c) ∧
     (∀ v, p.1 = .div → b ≠ 0 → decResult u c .packed (l1 - l2) e1.a (a.tdiv b) = .ok v →
       let r := (a.tmod b).natAbs
       let w := wholeWrite v c ⟨e1.a + (l1 - l2), fmtBytes .packed l2 (if a < 0 ∧ r % 10 ^ (2 * l2 - 1) ≠ 0 then 13 else 12) (r % 10 ^ (2 * l2 - 1)), 0, false⟩
       ∃ t, exec p.2 s = .next t ∧ sidesG w t c [e1, e2] ∧ keepsRest w t c) ∧
     (p.1 = .div → b = 0 → teBit s c 4 = false →
       ∃ t, exec p.2 s = .next t ∧ (curBank t c).cc = 3 ∧ (curBank t c).fl = setFld (curBank u c).fl 3 3 1 ∧
         sidesG u t c [e1, e2] ∧ keepsMost u t c) ∧
     (p.1 = .cmp →
       ∃ t, exec p.2 s = .next t ∧ (curBank t c).cc = (if a = b then 0 else if a < b then 1 else 2) ∧
         sidesG u t c [e1, e2] ∧ keepsFl u t c ∧ keepsMost u t c)) ∧
  ((∀ (c l1 l2 l3 : Nat) (m1 m2 m3 : Mem) (units : Nat) (s v : State) (e1 e2 e3 : Ea) (a b : Int) (p : DOp × Instr),
     let f := DForm.mmm l1 l2 l3 m1 m2 m3
     p ∈ [(.add, .dadd c f), (.sub, .dsub c f), (.mul, .dmul c f units), (.div, .ddiv c f units)] →
     let q := decRunOf p.2 c p.1 f
     let u := opened s q
     let o2 : Opd := ⟨2, .packed, l2, m2, .read⟩
     let o3 : Opd := ⟨3, .packed, l3, m3, .read⟩
     clear s q = true → isLongForm p.1 f = false →
     opdCheck u c [⟨1, .packed, l1, m1, .write⟩, o2, o3] = .ok [e1, e2, e3] →
     opdVal u c o2 e2 = .ok a → opdVal u c o3 e3 = .ok b →
     (p.1 = .add ∧ decResult u c .packed l1 e1.a (a + b) = .ok v ∨
       p.1 = .sub ∧ decResult u c .packed l1 e1.a (a - b) = .ok v ∨
       p.1 = .mul ∧ decResult u c .packed l1 e1.a (a * b) = .ok v ∨
       p.1 = .div ∧ b ≠ 0 ∧ decResult u c .packed l1 e1.a (a.tdiv b) = .ok v ∨
       p.1 = .div ∧ b = 0 ∧ teBit s c 4 = false ∧ v = setFl (setCc u c 3) c 3) →
     ∃ t, exec p.2 s = .next t ∧ sidesG v t c [e1, e2, e3] ∧ keepsRest v t c) ∧
   (∀ (c : Nat) (ka kb : Fin 4) (units : Nat) (s : State) (p : DOp × Instr),
     let f := DForm.aa ka kb
     p ∈ [(.add, .dadd c f), (.sub, .dsub c f), (.mul, .dmul c f units), (.div, .ddiv c f units), (.cmp, .dcmp c f)] →
     let q := decRunOf p.2 c p.1 f
     let u := opened s q
     let a := rdA s c ka
     let b := rdA s c kb
     clear s q = true →
     (∀ v, (p.1 = .add ∧ accResult u c ka (a + b) = .ok v ∨ p.1 = .sub ∧ accResult u c ka (a - b) = .ok v ∨
         p.1 = .mul ∧ accResult u c ka (a * b) = .ok v ∨
         p.1 = .div ∧ b = 0 ∧ teBit s c 4 = false ∧ v = setFl (setCc u c 3) c 3) →
       ∃ t, exec p.2 s = .next t ∧ keepsG v t c ∧ keepsRest v t c) ∧
     (∀ v, p.1 = .div → b ≠ 0 → accResult u c ka (a.tdiv b) = .ok v →
       let r := (a.tmod b).natAbs % 10 ^ 63
       let w := wrA v c kb (accOf (if a < 0 ∧ r ≠ 0 then 13 else 12) r)
       ∃ t, exec p.2 s = .next t ∧ keepsG w t c ∧ keepsRest w t c) ∧
     (p.1 = .cmp → ∃ t, exec p.2 s = .next t ∧ (curBank t c).cc = (if a = b then 0 else if a < b then 1 else 2) ∧
       keepsG u t c ∧ keepsFl u t c ∧ keepsMost u t c)))

/-- R203, R209: LDA and STA between an accumulator and a field in any format, DSRD (digits shifted and rounded), PACK,
UNPK, CVPD and CVDP (the value of one format written in another): what `accResult` or `decResult` writes, and storage
side effects. -/
def Obligations.DecimalMove : Prop :=
  (∀ (c : Nat) (k : Fin 4) (f : BitVec 2) (l : Nat) (m : Mem) (s v : State) (e : Ea) (x : Int),
    (let q := amRun (.lda c k f l m) c f l m
     let u := opened s q
     let o : Opd := ⟨1, fmtOf f, l, m, .read⟩
     clear s q = true → opdCheck u c [o] = .ok [e] → opdVal u c o e = .ok x → accResult u c k x = .ok v →
     ∃ t, exec (.lda c k f l m) s = .next t ∧ sidesG v t c [e] ∧ keepsRest v t c) ∧
    (let q := amRun (.sta c k f l m) c f l m
     let u := opened s q
     clear s q = true → opdCheck u c [⟨1, fmtOf f, l, m, .write⟩] = .ok [e] →
     decResult u c (fmtOf f) l e.a (rdA s c k) = .ok v →
     ∃ t, exec (.sta c k f l m) s = .next t ∧ sidesG v t c [e] ∧ keepsRest v t c)) ∧
  (∀ (c l : Nat) (sh : BitVec 8) (rnd : BitVec 4) (m : Mem) (s v : State) (e : Ea) (x : Int),
    let q : Run := ⟨c, some m.storage, 4 + memBytes m, dsrdUnd l sh rnd m, Tm.core (memSrcs m), (Instr.dsrd c l sh rnd m).wf⟩
    let u := opened s q
    let o : Opd := ⟨1, .packed, l, m, .both⟩
    let k := (-sh.toInt).toNat
    let cut := x.natAbs / 10 ^ k + (if 10 ≤ x.natAbs / 10 ^ (k - 1) % 10 + rnd.toNat then 1 else 0)
    clear s q = true → opdCheck u c [o] = .ok [e] → opdVal u c o e = .ok x →
    decResult u c .packed l e.a (if 0 ≤ sh.toInt then x * 10 ^ sh.toInt.toNat else if x < 0 then -(cut : Int) else cut) = .ok v →
    ∃ t, exec (.dsrd c l sh rnd m) s = .next t ∧ sidesG v t c [e] ∧ keepsRest v t c) ∧
  (∀ (c l1 l2 : Nat) (m1 m2 : Mem) (s v : State) (e1 e2 : Ea) (x : Int) (p : CvOp × DFmt × DFmt × Instr),
    p ∈ [(.pack, .packed, .zoned, .pack c l1 l2 m1 m2), (.unpk, .zoned, .packed, .unpk c l1 l2 m1 m2),
      (.cvpd, .declets, .packed, .cvpd c l1 l2 m1 m2), (.cvdp, .packed, .declets, .cvdp c l1 l2 m1 m2)] →
    let q := cvRun p.2.2.2 c p.1 l1 l2 m1 m2
    let u := opened s q
    let o2 : Opd := ⟨2, p.2.2.1, l2, m2, .read⟩
    clear s q = true → opdCheck u c [⟨1, p.2.1, l1, m1, .write⟩, o2] = .ok [e1, e2] → opdVal u c o2 e2 = .ok x →
    decResult u c p.2.1 l1 e1.a x = .ok v →
    ∃ t, exec p.2.2.2 s = .next t ∧ sidesG v t c [e1, e2] ∧ keepsRest v t c)

-- strings and units of operation

/-- R214 to R217: the unit-of-operation instructions, when they begin or resume. When the first unit completes the
instruction, its state is what the instruction leaves; when it does not and an event comes after it, the instruction
stops at the unit boundary with that state, its own address and PS.UIP 1.
R230, R231: what one picture byte of EDIT and EDMK does: x10 to x12 print a digit, or the fill character while
significance is off, x13 the point, x14 the group character, x15 the sign, x16 and x17 the fill character, and a literal
stays but after x16 in a field that is not negative; significance, the float position with its float character, the mark,
CC and the next nibble follow; x17 begins the next field. R230, R233, R234: a first unit of EDIT or EDMK whose picture lies
in cell memory, begun or resumed, leaves in the picture the bytes so edited and no other byte changed; at the end CC, 3 with
FL.DO when a field overflowed, CT (EDMK: the mark) and SIG 0; at a boundary the progress in CT, SIG and CC. By the model's
choice a picture that is a header alone has no field (log entry 51), and a float position of 1 to 3 with which a program
resumes is written (log entry 142). -/
def Obligations.UnitBoundary : Prop :=
  (∀ (c l1 l2 l3 : Nat) (m1 m2 m3 : Mem) (f : StrForm) (n : Nat) (s : State) (o : UnitOut)
    (p : Run × (Nat → State → Except Stop UnitOut) × Instr),
    let d := DForm.mmm l1 l2 l3 m1 m2 m3
    p ∈ [(strRun (.movs c f n) c f, movsUnit c f (movsDesc c f (opened s (strRun (.movs c f n) c f))), .movs c f n),
      (strRun (.cmps c f n) c f, cmpsUnit c f, .cmps c f n),
      (strRun (.trns c f n) c f, trnsUnit c f, .trns c f n), (strRun (.scan c f n) c f, scanUnit c f, .scan c f n),
      (editRun (.edit c l1 l2 m1 m2 n) c l1 m1 m2, editUnit c false l1 l2 m1 m2
        (edHeader (opened s (editRun (.edit c l1 l2 m1 m2 n) c l1 m1 m2)) c l1 m1), .edit c l1 l2 m1 m2 n),
      (editRun (.edmk c l1 l2 m1 m2 n) c l1 m1 m2, editUnit c true l1 l2 m1 m2
        (edHeader (opened s (editRun (.edmk c l1 l2 m1 m2 n) c l1 m1 m2)) c l1 m1), .edmk c l1 l2 m1 m2 n)] ∨
    isLongForm .mul d = true ∧
      p = (decRunOf (.dmul c d n) c .mul d, longUnit c .mul l1 l2 l3 m1 m2 m3, .dmul c d n) ∨
    isLongForm .div d = true ∧
      p = (decRunOf (.ddiv c d n) c .div d, longUnit c .div l1 l2 l3 m1 m2 m3, .ddiv c d n) →
    let u := opened s p.1
    clear s p.1 = true → unitsDone s c = none → p.2.1 0 u = .ok o →
    (o.fin = true → ∃ t, exec p.2.2 s = .next t ∧ keepsG o.s t c ∧ keepsRest o.s t c ∧
      (curBank t c).ia = (curBank s c).ia + BitVec.ofNat 40 p.1.len ∧ (curBank t c).uip = false) ∧
    (o.fin = false → n ≤ 1 → ∃ t, exec p.2.2 s = .next t ∧ keepsG o.s t c ∧ keepsRest o.s t c ∧
      (curBank t c).ia = (curBank s c).ia ∧ (curBank t c).uip = true)) ∧
  (∀ (src : List Byte) (e : Ed),
     let b := e.pic.getD e.p 0
     let hd (i : Nat) := e.hdr.getD i 0
     let code : Bool := 0x10 ≤ b.toNat && b.toNat ≤ 0x17
     let digit : Bool := b = 0x10 || b = 0x11 || b = 0x12
     let d := if e.nb < e.fs then 0 else nibAt src e.nb.toNat
     let shows : Bool := digit && (e.sig || d ≠ 0 || b = 0x11) || b = 0x13
     let on := shows && !e.sig
     let v : Byte :=
       if !code then (if e.nlp && !e.neg then hd 0 else b)
       else if digit then (if shows then BitVec.ofNat 8 (0x30 + d) else hd 0)
       else if b = 0x13 then hd 2
       else if b = 0x14 then (if e.sig then hd 3 else hd 0)
       else if b = 0x15 then (if e.neg then 0x2D else hd 0)
       else hd 0
     let pic (i : Nat) : Byte := if i = e.p then v else if on ∧ e.flpos ≠ 0 ∧ i = e.flpos then hd 1 else e.pic.getD i 0
     e.p < e.pic.length →
     (b ≠ 0x17 → ∃ e', edByte src e = some e' ∧ e'.hdr = e.hdr ∧ e'.pic.length = e.pic.length ∧
       (∀ i < e.pic.length, e'.pic.getD i 0 = pic i) ∧ e'.p = e.p + 1 ∧ e'.fs = e.fs ∧ e'.neg = e.neg ∧ e'.ovf = e.ovf ∧
       e'.nb = e.nb + (if digit then 1 else 0) ∧ e'.sig = (e.sig || shows) ∧
       e'.nlp = (if b = 0x16 then true else if code then false else e.nlp) ∧
       e'.flpos = (if on then 0 else if b = 0x12 && !shows then e.p else e.flpos) ∧
       e'.mark = (if on ∧ e.mark = 0 then (if e.flpos ≠ 0 then e.flpos else e.p) else e.mark) ∧
       e'.cc = (if digit ∧ d ≠ 0 then (if e.neg then 1 else if e.cc = 0 then 2 else e.cc) else e.cc)) ∧
     (∀ nb neg o, b = 0x17 → edAlign src (e.pic.set e.p (hd 0)) (e.nb + 1).toNat (e.p + 1) = some (nb, neg, o) →
       ∃ e', edByte src e = some e' ∧ e'.hdr = e.hdr ∧ e'.pic = e.pic.set e.p (hd 0) ∧ e'.p = e.p + 1 ∧
         e'.fs = (e.nb + 1).toNat ∧ e'.nb = nb ∧ e'.neg = neg ∧ e'.ovf = (e.ovf || o) ∧ e'.sig = false ∧ e'.nlp = false ∧
         e'.flpos = 0 ∧ e'.mark = e.mark ∧ e'.cc = e.cc)) ∧
  (∀ (c l1 l2 n : Nat) (mk : Bool) (m1 m2 : Mem) (s : State) (o : UnitOut) (e1 e2 : Ea),
     let i := if mk then Instr.edmk c l1 l2 m1 m2 n else .edit c l1 l2 m1 m2 n
     let q := editRun i c l1 m1 m2
     let u := opened s q
     let ph (k : Nat) := physOf (cellOf c) (e1.a + k)
     let pic := (List.range l1).map fun k => wholeByte u c (e1.a + k)
     let src := (List.range l2).map fun k => wholeByte u c (e2.a + k)
     let z : Ed := ⟨4, 0, 0, 0, 0, false, false, false, false, 0, pic.take 4, pic, []⟩
     let e0 := if (curBank u c).uip then edLoad u c (pic.take 4) pic
       else if l1 ≤ 4 then z
       else match edAlign src pic 0 4 with
         | some r => { z with nb := r.1, neg := r.2.1, ovf := r.2.2 }
         | none => z
     let e := (edUnitBytes src l1 17 e0 []).1
     clear s q = true → unitsDone s c = none → eaOf u c 1 l1 true m1 = .ok e1 → eaOf u c 2 l2 false m2 = .ok e2 →
     editUnit c mk l1 l2 m1 m2 (pic.take 4) 0 u = .ok o →
     (∀ k < l1, isDram u (e1.a + k) = false ∧ isCtl (e1.a + k) = false ∧ heapAt (ph k) = none ∧
       wholeByte u c (e1.a + k) = rdByte u.mem (ph k)) →
     (l1 ≤ e.p ∨ n ≤ 1) →
     ∃ t, exec i s = .next t ∧ (∀ k < l1, rdByte t.mem (ph k) = e.pic.getD k 0) ∧
       (∀ x, (∀ k < l1, x ≠ ph k) → rdByte t.mem x = rdByte u.mem x) ∧
       sidesG u t c (if l1 ≤ e.p then [e1, e2] else []) ∧ keepsA u t c ∧ keepsF u t c ∧
       (if l1 ≤ e.p then
          (curBank t c).cc = (if e.ovf then 3 else e.cc) ∧ (curBank t c).sig = false ∧
          (curBank t c).ct = (if mk then BitVec.ofNat 64 e.mark else 0) ∧
          (curBank t c).fl = (if e.ovf then (curBank (setFl u c 2) c).fl else (curBank u c).fl)
        else
          (curBank t c).cc = e.cc ∧ (curBank t c).sig = e.sig ∧ (curBank t c).ct = edCt e ∧ keepsFl u t c))

/-- R221, R222: MOVS of up to 64 bytes in cell memory, within its windows: each destination byte receives its source
byte as it stood, whatever the overlap; no other byte changes; CC stays. The length register ends as 0; ascending,
both addresses advance; descending, they stay. A length of 0 does nothing. R225: TRNS of up to 64 bytes of cell memory
whose table lies apart from them: each byte is replaced by the table byte that it selects, and no other byte changes.
The length register ends as 0 and the operand register advances. R223: MOVP writes the second operand, cut or padded
to the first's length, tagged RAW, and sets CC 0, 1 or 2 as the first operand is as long as the second, shorter or
longer. -/
def Obligations.StringMoves : Prop :=
  (∀ (c : Nat) (f : StrForm) (n len : Nat) (s : State) (a b : TWord),
     let q := strRun (.movs c f n) c f
     let u := opened s q
     let d (i : Nat) := strByte u c a i
     let r (i : Nat) := strByte u c b i
     let regs := strRegs f
     let desc := r 0 < d 0 ∧ d 0 < r 0 + len
     clear s q = true → unitsDone s c = none → strIn u c f = .ok (len, a, b) →
     (len = 0 → strNone f true a b = .ok () → ∃ t, exec (.movs c f n) s = .next t ∧ keepsG u t c ∧ keepsRest u t c) ∧
     (0 < len → len ≤ 64 → (∀ i < len, d i = d 0 + i ∧ r i = r 0 + i) →
       strOperand u c f true 2 a = .ok () → strOperand u c f false 3 b = .ok () →
       (∀ i < len, byteOk u c .write (d i) = true ∧ byteOk u c .read (r i) = true ∧
         isPoison (wholeWord u c (d i)) = false ∧ isPoison (wholeWord u c (r i)) = false ∧
         isDram u (d i) = false ∧ isDram u (r i) = false ∧ isCtl (d i) = false ∧ isCtl (r i) = false ∧
         heapAt (physOf (cellOf c) (d i)) = none) →
       ∃ t, exec (.movs c f n) s = .next t ∧
         (∀ i < len, rdByte t.mem (physOf (cellOf c) (d i)) = wholeByte u c (r i)) ∧
         (∀ x, (∀ i < len, x ≠ physOf (cellOf c) (d i)) → rdByte t.mem x = rdByte u.mem x) ∧
         (∀ g, peekG t c g = if g = regs.1 then fix 0 else if desc then peekG u c g
           else if g = regs.2.1 then strAdv a len else if g = regs.2.2 then strAdv b len else peekG u c g) ∧
         keepsSpecial u t c ∧ keepsA u t c ∧ keepsF u t c ∧ keepsFl u t c ∧ keepsCc u t c)) ∧
  (∀ (c : Nat) (f : StrForm) (n len : Nat) (s : State) (a b : TWord),
     let q := strRun (.trns c f n) c f
     let u := opened s q
     let x (i : Nat) := strByte u c a i
     let y (i : Nat) := strByte u c b (wholeByte u c (x i)).toNat
     let ph (i : Nat) := physOf (cellOf c) i
     clear s q = true → strIn u c f = .ok (len, a, b) → 0 < len → len ≤ 64 →
     strOperand u c f true 2 a = .ok () → strOperand u c f false 3 b = .ok () →
     strLimit 2 a len = .ok () → (∀ i < len, x i = x 0 + i) →
     (∀ i < len, byteOk u c .both (x i) = true ∧ byteOk u c .read (y i) = true ∧ isDram u (x i) = false ∧
       isCtl (x i) = false ∧ tableNear u c (y i) = true ∧ isPoison (wholeWord u c (x i)) = false ∧
       isPoison (wholeWord u c (y i)) = false ∧ heapAt (ph (x i)) = none ∧ ∀ j < len, ph (y i) ≠ ph (x j)) →
     ∃ t, exec (.trns c f n) s = .next t ∧
       (∀ i < len, rdByte t.mem (ph (x i)) = wholeByte u c (y i)) ∧
       (∀ z, (∀ i < len, z ≠ ph (x i)) → rdByte t.mem z = rdByte u.mem z) ∧
       (∀ g, peekG t c g = if g = (strRegs f).1 then fix 0 else if g = (strRegs f).2.1 then strAdv a len else peekG u c g) ∧
       keepsSpecial u t c ∧ keepsA u t c ∧ keepsF u t c ∧ keepsFl u t c ∧ keepsCc u t c) ∧
  (∀ (c l1 l2 : Nat) (pad : Byte) (m1 m2 : Mem) (s : State) (e1 e2 : Ea) (bs : List Byte),
     let q : Run := ⟨c, some m1.storage, 4 + memBytes m1 + memBytes m2, specUnd (offIn m1 4) [m1, m2],
       Tm.core (memSrcs m1 ++ memSrcs m2), (Instr.movp c l1 l2 pad m1 m2).wf⟩
     let u := opened s q
     clear s q = true → eaOf u c 1 l1 true m1 = .ok e1 → eaOf u c 2 l2 false m2 = .ok e2 →
     checkBytes u c .write 1 e1.a l1 = .ok () → checkBytes u c .read 2 e2.a l2 = .ok () →
     (dramWords u e2.a l2).length ≤ 24 → needFar u c [(e2.a, l2)] = .ok () → poisonFree u c e1.a l1 = .ok () →
     wholeBytes u c e2.a l2 = .ok bs →
     let v := wholeWrite u c ⟨e1.a, bs.take l1 ++ List.replicate (l1 - l2) pad, 0, false⟩
     ∃ t, exec (.movp c l1 l2 pad m1 m2) s = .next t ∧
       (curBank t c).cc = (if l1 = l2 then 0 else if l1 < l2 then 1 else 2) ∧
       sidesG v t c [e1, e2] ∧ keepsFl v t c ∧ keepsMost v t c)

/-- R224, R226: CMPS and SCAN of up to 64 readable bytes of cell memory. CMPS stops at the first unequal pair, its
registers at that pair, CC 1 or 2 as the first operand's byte is lower or higher, or ends with CC 0. SCAN stops at the
first byte whose table byte is not zero, with CT that byte and CC 1, or ends with CC 0 and CT unchanged. -/
def Obligations.StringSearch : Prop :=
  ∀ (c : Nat) (f : StrForm) (n len k : Nat) (s : State) (a b : TWord),
    len ≤ 64 → k ≤ len →
    (let q := strRun (.cmps c f n) c f
     let u := opened s q
     let x (i : Nat) := strByte u c a i
     let y (i : Nat) := strByte u c b i
     clear s q = true → strIn u c f = .ok (len, a, b) → strOperand u c f false 2 a = .ok () →
     strOperand u c f false 3 b = .ok () → strLimit 2 a k = .ok () → strLimit 3 b k = .ok () →
     (∀ i < len, byteOk u c .read (x i) = true ∧ byteOk u c .read (y i) = true ∧ isDram u (x i) = false ∧
       isDram u (y i) = false ∧ isPoison (wholeWord u c (x i)) = false ∧ isPoison (wholeWord u c (y i)) = false) →
     (∀ i < k, wholeByte u c (x i) = wholeByte u c (y i)) → (k < len → wholeByte u c (x k) ≠ wholeByte u c (y k)) →
     ∃ t, exec (.cmps c f n) s = .next t ∧
       (curBank t c).cc = (if k = len then 0 else if (wholeByte u c (x k)).toNat < (wholeByte u c (y k)).toNat then 1 else 2) ∧
       (∀ g, peekG t c g = if len = 0 then peekG u c g else if g = (strRegs f).1 then fixN (len - k)
         else if g = (strRegs f).2.1 then strAdv a k else if g = (strRegs f).2.2 then strAdv b k else peekG u c g) ∧
       keepsFl u t c ∧ keepsMost u t c) ∧
    (let q := strRun (.scan c f n) c f
     let u := opened s q
     let x (i : Nat) := strByte u c a i
     let y (i : Nat) := strByte u c b (wholeByte u c (x i)).toNat
     clear s q = true → strIn u c f = .ok (len, a, b) → strOperand u c f false 2 a = .ok () →
     strOperand u c f false 3 b = .ok () → strLimit 2 a k = .ok () →
     (∀ i < len, byteOk u c .read (x i) = true ∧ byteOk u c .read (y i) = true ∧ isDram u (x i) = false ∧
       tableNear u c (y i) = true ∧ isPoison (wholeWord u c (x i)) = false ∧ isPoison (wholeWord u c (y i)) = false) →
     (∀ i < k, wholeByte u c (y i) = 0) → (k < len → wholeByte u c (y k) ≠ 0) →
     ∃ t, exec (.scan c f n) s = .next t ∧ (curBank t c).cc = (if k = len then 0 else 1) ∧
       (curBank t c).ct = (if k = len then (curBank u c).ct else (wholeByte u c (y k)).setWidth 64) ∧
       (∀ g, peekG t c g = if len = 0 then peekG u c g else if g = (strRegs f).1 then fixN (len - k)
         else if g = (strRegs f).2.1 then strAdv a k else peekG u c g) ∧
       keepsSpecial (setBank u c { curBank u c with ct := (curBank t c).ct }) t c ∧
       keepsFl u t c ∧ keepsA u t c ∧ keepsF u t c ∧ keepsMem u t c)

-- binary64

/-- R248 to R257: on a variant with the binary FP unit and no enabled condition, FADD, FSUB, FMUL and FDIV deliver the
result of their operation in the rounding mode of TE.RM, FSQRT its root and FMOV its operand bit for bit; the
conditions are sticky in FL; FCMP sets CC 0 equal, 1 less, 2 greater or 3 unordered. R258, R259: FCVT to fixed and to
binary64, and their values: an integer of magnitude up to 2^53 becomes the binary64 number that converts back to it,
without a condition, in every rounding mode. -/
def Obligations.BinaryFloat : Prop :=
  ((∀ (c : Nat) (f : FForm) (s : State) (o : FIn) (p : FRes × Run × Instr),
     p ∈ [(fAdd (roundMode s c) o.a o.b, fRunOf (.fadd c f) c f .fadd fun r => [32 + r.val], .fadd c f),
       (fSub (roundMode s c) o.a o.b, fRunOf (.fsub c f) c f .fadd fun r => [32 + r.val], .fsub c f),
       (fMul (roundMode s c) o.a o.b, fRunOf (.fmul c f) c f .fmul fun r => [32 + r.val], .fmul c f),
       (fDiv (roundMode s c) o.a o.b, fRunOf (.fdiv c f) c f .fdiv fun r => [32 + r.val], .fdiv c f)] →
     let u := opened s p.2.1
     clear s p.2.1 = true → hasFp s = true → fIn u c f = .ok o → fpTrap s c p.1.cond = none →
     ∃ t, exec p.2.2 s = .next t ∧ (∀ g : Reg, (fRegs t c)[g] = if g = o.fd then p.1.val else (fRegs u c)[g]) ∧
       (curBank t c).fl = (curBank u c).fl ||| BitVec.ofNat 64 p.1.cond.bits ∧ sidesG u t c o.sides ∧
       keepsCc u t c ∧ keepsSpecial u t c ∧ keepsA u t c ∧ keepsMem u t c) ∧
   (∀ (c : Nat) (f : FForm) (s : State) (o : FIn),
     let q := fRunOf (.fcmp c f) c f .none fun _ => [64]
     let u := opened s q
     let r := fCmp o.a o.b
     clear s q = true → hasFp s = true → fIn u c f = .ok o → fpTrap s c r.2 = none →
     ∃ t, exec (.fcmp c f) s = .next t ∧ (curBank t c).cc = r.1 ∧
       (curBank t c).fl = (curBank u c).fl ||| BitVec.ofNat 64 r.2.bits ∧ sidesG u t c o.sides ∧ keepsMost u t c) ∧
   (∀ (c : Nat) (fd fa : Reg) (f : UnForm) (s : State) (x : Word) (p : FRes × Run × Reg × Instr),
     p ∈ [(fSqrt (roundMode s c) x, fUnRun (.fsqrt c f) c f .fdiv 32 32, (unRegs f).1, .fsqrt c f),
       (⟨x, FCond.none⟩, ⟨c, some false, 3, none, tmOf false true .none [32 + fa.val] [32 + fd.val], (Instr.fmov c fd fa).wf⟩,
         fd, .fmov c fd fa)] →
     let u := opened s p.2.1
     clear s p.2.1 = true → hasFp s = true → rdF u c (if p.2.2.2 = .fmov c fd fa then fa else (unRegs f).2) = .ok x →
     fpTrap s c p.1.cond = none →
     ∃ t, exec p.2.2.2 s = .next t ∧ (∀ g : Reg, (fRegs t c)[g] = if g = p.2.2.1 then p.1.val else (fRegs u c)[g]) ∧
       (curBank t c).fl = (curBank u c).fl ||| BitVec.ofNat 64 p.1.cond.bits ∧ keepsG u t c ∧
       keepsCc u t c ∧ keepsSpecial u t c ∧ keepsA u t c ∧ keepsMem u t c)) ∧
  ((∀ (c : Nat) (f : UnForm) (s : State) (x : Word),
     let q := fUnRun (.fcvtToFix c f) c f .none 32 0
     let u := opened s q
     let r := fToFix (roundMode s c) x
     clear s q = true → hasFp s = true → rdF u c (unRegs f).2 = .ok x → fpTrap s c r.cond = none →
     ∃ t, exec (.fcvtToFix c f) s = .next t ∧ onlyG u t c (unRegs f).1 (fix r.val) ∧
       (curBank t c).fl = (curBank u c).fl ||| BitVec.ofNat 64 r.cond.bits ∧ keepsCc u t c ∧ keepsMost u t c) ∧
   (∀ (c : Nat) (f : UnForm) (s : State) (w : TWord),
     let q := fUnRun (.fcvtToFloat c f) c f .none 0 32
     let u := opened s q
     let r := fOfFix (roundMode s c) w.pay
     clear s q = true → hasFp s = true → rdG u c (unRegs f).2 = .ok w → isInt w = true → fpTrap s c r.cond = none →
     ∃ t, exec (.fcvtToFloat c f) s = .next t ∧
       (∀ g : Reg, (fRegs t c)[g] = if g = (unRegs f).1 then r.val else (fRegs u c)[g]) ∧
       (curBank t c).fl = (curBank u c).fl ||| BitVec.ofNat 64 r.cond.bits ∧ keepsG u t c ∧
       keepsCc u t c ∧ keepsSpecial u t c ∧ keepsA u t c ∧ keepsMem u t c) ∧
   (∀ (rm : Nat) (v : Word), rm < 4 → v.toInt.natAbs ≤ 2 ^ 53 →
     (fOfFix rm v).cond = FCond.none ∧ fToFix rm (fOfFix rm v).val = ⟨v, FCond.none⟩))

-- control

/-- R143, R150: the branches go to their target or to the next instruction. BRC branches when the MASK bit of CC is 1;
BRL and JMPL leave an immutable CODE pointer to the byte after them; JMP and JMPL go to the address of their CODE pointer; BCT subtracts 1
and branches while the result is not 0. R107, R108: MODE. To the current mode it changes nothing; to the other it sets
PS.SMODE unless the region at the next address refuses it, which is REGION_PROTECTION with the mode unchanged. Of the
model's choice are the length 8 by which a target's specifier moves its base (log entry 120), that the result is written
before the base moves where BRL or BCT names one register for both (121), and the INFO x0F of a refused MODE, which no key
refuses (56). -/
def Obligations.ControlFlow : Prop :=
  ((∀ (c : Nat) (mask : BitVec 4) (d : BitVec 20) (s : State),
     let q : Run := ⟨c, some false, 4, none, Tm.pipe [64] [], (Instr.brc c (.rel mask d)).wf⟩
     let b := curBank s c
     let a : Int := b.ia.toNat + d.toInt
     let taken := bit mask (3 - b.cc) = true
     clear s q = true → (taken → 0 ≤ a ∧ a < 2 ^ 40) →
     ∃ t, exec (.brc c (.rel mask d)) s = .next t ∧
       (curBank t c).ia = (if taken then BitVec.ofInt 40 a else b.ia + 4) ∧ keepsG s t c ∧ keepsRest s t c) ∧
   (∀ (c : Nat) (mask : BitVec 4) (rd : Reg) (m : SMem) (s : State) (e : Ea),
     (let q : Run := ⟨c, some true, 2 + memBytes (.sto m), memUnd 2 (.sto m), Tm.core (64 :: memSrcs (.sto m)),
       (Instr.brc c (.sto mask m)).wf⟩
      let u := opened s q
      clear s q = true → targetSto u c 1 m = .ok e →
      ∃ t, exec (.brc c (.sto mask m)) s = .next t ∧
        (curBank t c).ia = (if bit mask (3 - (curBank s c).cc) then BitVec.ofNat 40 e.a
          else (curBank s c).ia + BitVec.ofNat 40 q.len) ∧ sidesG u t c [e] ∧ keepsRest u t c) ∧
     (let q : Run := ⟨c, some true, 2 + memBytes (.sto m), memUnd 2 (.sto m), Tm.core (memSrcs (.sto m)),
       (Instr.brl c (.sto rd m)).wf⟩
      let u := opened s q
      let l : TWord := ⟨0xA8, BitVec.ofNat 64 (((curBank s c).ia.toNat + q.len) % 2 ^ 40)⟩
      clear s q = true → targetSto u c 1 m = .ok e →
      ∃ t, exec (.brl c (.sto rd m)) s = .next t ∧ (curBank t c).ia = BitVec.ofNat 40 e.a ∧
        (∀ g, peekG t c g = sided (if g = rd then l else peekG u c g) (sideOf [e] g)) ∧ keepsRest u t c) ∧
     (let q : Run := ⟨c, some true, 2 + memBytes (.sto m), memUnd 2 (.sto m), Tm.core (rd.val :: memSrcs (.sto m)),
       (Instr.bct c rd m).wf⟩
      let u := opened s q
      ∀ w, clear s q = true → rdG u c rd = .ok w → isInt w = true → targetSto u c 2 m = .ok e →
      ∃ t, exec (.bct c rd m) s = .next t ∧
        (curBank t c).ia = (if w.pay = 1 then (curBank s c).ia + BitVec.ofNat 40 q.len else BitVec.ofNat 40 e.a) ∧
        (∀ g, peekG t c g = sided (if g = rd then fix (w.pay - 1) else peekG u c g) (sideOf [e] g)) ∧ keepsRest u t c)) ∧
   (∀ (c : Nat) (d : BitVec 24) (s : State),
     let a : Int := (curBank s c).ia.toNat + d.toInt
     clear s ⟨c, some false, 4, none, Tm.pipe [] [31], (Instr.brl c (.rel d)).wf⟩ = true → 0 ≤ a → a < 2 ^ 40 →
     ∃ t, exec (.brl c (.rel d)) s = .next t ∧ (curBank t c).ia = BitVec.ofInt 40 a ∧
       onlyG s t c 31 ⟨0xA8, BitVec.ofNat 64 (((curBank s c).ia.toNat + 4) % 2 ^ 40)⟩ ∧ keepsRest s t c) ∧
   (∀ (c : Nat) (ra : Reg) (s : State) (w : TWord), rdG s c ra = .ok w → tagClass w = 10 →
     (clear s ⟨c, some false, 3, none, Tm.pipe [ra.val] [], (Instr.jmp c ra).wf⟩ = true →
       ∃ t, exec (.jmp c ra) s = .next t ∧ (curBank t c).ia = BitVec.ofNat 40 (fld w.pay 39 0) ∧
         keepsG s t c ∧ keepsRest s t c) ∧
     (clear s ⟨c, some false, 3, none, Tm.pipe [ra.val] [31], (Instr.jmpl c ra).wf⟩ = true →
       ∃ t, exec (.jmpl c ra) s = .next t ∧ (curBank t c).ia = BitVec.ofNat 40 (fld w.pay 39 0) ∧
         onlyG s t c 31 ⟨0xA8, BitVec.ofNat 64 (((curBank s c).ia.toNat + 3) % 2 ^ 40)⟩ ∧ keepsRest s t c))) ∧
  (∀ (c : Nat) (pre : Bool) (imm : BitVec 8) (s : State),
     let q := sharedRun (.mode c pre imm) c (if pre then 3 else 2)
       (if pre then some 1 else if imm.toNat < 2 then none else some 1) []
     let u := opened s q
     let m : Bool := imm = 1
     let a := (curBank s c).ia.toNat + 2
     let f := byteFail u (whoOf u c) (.fetch m) a
     clear s q = true →
     ((m = (curBank s c).smode ∨ ∀ x, f ≠ some (6, x)) →
       ∃ t, exec (.mode c pre imm) s = .next t ∧ (curBank t c).smode = m ∧ keepsG u t c ∧
         keepsRest (setBank u c ((curBank u c).setMode m)) t c) ∧
     (m ≠ (curBank s c).smode → (∃ x, f = some (6, x)) →
       ∃ t, exec (.mode c pre imm) s = .next t ∧ (getCore t c).exc = some ⟨(curBank s c).ia, 6, 0x0F, a / 256 % 2 ^ 32, false, false⟩ ∧
         keepsG u t c ∧ keepsRest u t c))

/-- R70 to R74: TCOMMIT and TABORT within budget. The transaction's record joins the commit path: COMMITTED or
ABORTED_RULE with its reason and the body, or, where the journal guard finds a bad byte, ABORTED_FAULT x00F1 with
the device item that locates it. The context is ENDING and its core free; no memory changes. -/
def Obligations.TransactionEnd : Prop :=
  ∀ (c n : Nat) (rd ra rb : Reg) (s : State) (e : Nat × Nat × Nat) (p : Option Reg × Nat × Nat × List Reg × Instr),
    p ∈ [(none, 0, 0, [ra, rb], .tcommit c ra rb), (some rd, 1, e.2.2, [rd, ra, rb], .tabort c rd ra rb)] →
    let q := sharedRun p.2.2.2.2 c 3
      (if p.1 = none then sharedUnd s c [(ra, 1), (rb, 2)] else sharedUnd s c [(rd, 1), (ra, 1), (rb, 2)])
      (p.2.2.2.1.map (·.val))
    let u := opened s q
    let x := getCtx s n
    let k := getCore s c
    let bs := seeBytes u c e.1 e.2.1
    let bad := guardWalk bs ((List.range e.2.1).map fun i => isPoison (seeWord u c (e.1 + i))) (bs.length / 8 + 1) 0 0
    c < 256 → clear s q = true → (curBank s c).priv ≠ 3 → k.running = some n → endChecks u c ra rb p.1 = .ok e →
    startOf u q + 16 ≤ k.freeAt / 500 + x.bcnt →
    ∃ t r, exec p.2.2.2.2 s = .next t ∧ t.jrn.path = u.jrn.path ++ [r] ∧ r.kind = 1 ∧ r.stream = ownStream s ∧
      r.status = (if bad.isSome then 2 else p.2.1) ∧ r.reason = (if bad.isSome then 0xF1 else p.2.2.1) ∧
      r.body = (match bad with | some o => mkItem 0x8001 (beBytes 8 o) | none => bs) ∧
      r.tx = some ⟨x.orig, x.serial, x.port, x.session, x.stamp, n⟩ ∧ (getCtx t n).st = .ending ∧
      (getCore t c).running = none ∧ t.mem = u.mem

/-- R61, R330: TYIELD. The turn passes to the first READY context of the lane when its run deadline is at or before
the context's own, which becomes READY; otherwise the context goes on, with nothing changed. R61, R324 to R329:
PREEMPTION and DISPATCH. A core asked to preempt passes, at a boundary after the request or in a wait, to the first READY context
of its lane when its run deadline is earlier than the running one's, which becomes READY; a free core of an awake cell takes the first READY context.
That context is RUNNING, and the schedule starts anew. -/
def Obligations.Switches : Prop :=
  (∀ (c n : Nat) (s : State),
     let q := sharedRun (.tyield c) c 1 none []
     let u := opened s q
     c < 256 → clear s q = true → (getCore s c).running = some n →
     (∀ m, nextReady s c (some n) = some m → (getCtx s m).dl ≤ (getCtx s n).dl →
       ∃ t, exec (.tyield c) s = .next t ∧ (getCore t c).running = some m ∧ (getCtx t m).st = .running ∧
         (getCtx t n).st = .ready ∧ t.mem = u.mem) ∧
     ((∀ m, nextReady s c (some n) = some m → (getCtx s n).dl < (getCtx s m).dl) →
       ∃ t, exec (.tyield c) s = .next t ∧ (getCore t c).running = some n ∧ (curBank t c).ia = (curBank s c).ia + 1 ∧
         keepsG u t c ∧ keepsRest u t c)) ∧
  ((∀ (c n m : Nat) (s : State),
     let k := getCore s c
     coreUp s c = true → c < 256 → k.running = some n → k.verdict = none → stopDue s c = false →
     nextReady s c (some n) = some m →
     (k.preempt = true → (getCtx s m).dl < (getCtx s n).dl → cellAwake s c = true →
       k.preAt ≤ boundary k ∨ waitsAt s c n = true →
       ∃ t, exec (.preemption c) s = .next t ∧ (getCore t c).running = some m ∧ (getCtx t m).st = .running ∧
         (getCtx t n).st = .ready ∧ (getCtx t n).xpend = k.exc ∧ (getCore t c).preempt = false ∧ t.mem = s.mem) ∧
     (k.preempt = true → (getCtx s n).dl ≤ (getCtx s m).dl → k.preAt ≤ boundary k ∨ waitsAt s c n = true →
       ∃ t, exec (.preemption c) s = .next t ∧ (getCore t c).running = some n ∧ (getCore t c).preempt = false ∧
         t.ctxs = s.ctxs ∧ t.mem = s.mem)) ∧
   (∀ (c m : Nat) (s : State),
     coreUp s c = true → c < 256 → (getCore s c).running = none → (getCore s c).exc = none →
     (getCore s c).verdict = none → cellAwake s c = true → nextReady s c none = some m →
     ∃ t, exec (.dispatch c) s = .next t ∧ (getCore t c).running = some m ∧ (getCtx t m).st = .running ∧
       (getCore t c).exc = (getCtx s m).xpend ∧ t.mem = s.mem ∧
       ((getCtx s m).started = false →
         let d := getCtx t m
         d.base.ia = (getCtx s m).sel.entry ∧ d.base.priv = (getCtx s m).sel.priv % 4 ∧ d.bcnt = (getCtx s m).sel.wcet ∧
         d.base.g[3] = fixN (getCtx s m).stamp ∧ d.base.g[5] = fixN (getCtx s m).pool)))

/-- R336 to R338: GATE, all checks passed. A new level starts at ENTRY with the descriptor's privilege, key and mode;
it receives the arguments, and G30 as the stack pointer its privilege calls for; every other register is fresh. LINK
is the next address and LINFO the caller's mode, privilege and RMASK. R339, R349: GRET. From a gate level it goes on
at LINK in the caller's mode and privilege; the registers of RMASK and CC come from the level left, whose flags join
the caller's. From the exception level it goes on at the frame's address with the frame's registers, mode, CC, SIG and
UIP, FL, TE, CT and XB. -/
def Obligations.Levels : Prop :=
  (∀ (c n : Nat) (ra : Reg) (s : State) (w : TWord),
     let q := sharedRun (.gate c ra) c 3 (sharedUnd s c [(ra, 1)]) (ra.val :: gateSrcs s c ra)
     let u := opened s q
     let a := fld w.pay 39 0
     let p (i : Nat) := (seeWord u c (a + 8 * i)).pay
     let d : GateDesc := ⟨p 0, p 1, p 2, p 3⟩
     let b := curBank s c
     let x := getCtx s n
     c < 256 → clear s q = true → rdG s c ra = .ok w → tagClass w = 10 → gateReach u c a = true → gdOk d = true →
     baseBarrier u c (some w) = .ok () → b.priv ≤ fld d.w0 60 59 → (getCore s c).running = some n →
     x.depth < s.adm.gdepth →
     argCheck u c d true (gdNarg d) 0 = .ok () → argCheck u c d false (gdNarg d) 0 = .ok () →
     (gdTpriv d = 1 → 2 ≤ b.priv → stackOk u c x x.ssp = true) → (gatePasses d b = true → bit b.pend 30 = false) →
     ∃ t lv rest, exec (.gate c ra) s = .next t ∧ (getCtx t n).gates = lv :: rest ∧ rest.length = x.gates.length ∧
       lv.link = b.ia + 3 ∧ lv.cSmode = b.smode ∧ lv.cPriv = b.priv ∧ lv.rmask.toNat = fld d.w0 47 40 ∧
       lv.bank.ia = BitVec.ofNat 40 (gdEntry d) ∧ lv.bank.priv = gdTpriv d ∧ lv.bank.akey = fld d.w0 55 52 ∧
       lv.bank.smode = bit d.w0 58 ∧ lv.bank.cc = 0 ∧ lv.bank.fl = 0 ∧ lv.bank.te = 0xFE ∧ lv.bank.ct = 0 ∧
       lv.bank.xb = BitVec.ofNat 24 (gdEntry d / 65536) ∧ lv.bank.a = Vector.replicate 4 accZero ∧
       (∀ g : Reg, lv.bank.g[g] =
         if g = 30 then (if gdTpriv d = 1 ∧ 2 ≤ b.priv then x.ssp else if b.priv < gdTpriv d then nil else b.g[g])
         else if ∃ k < gdNarg d, g = argReg k then b.g[g] else nil) ∧
       keepsF u t c ∧ t.mem = u.mem) ∧
  (∀ (c n : Nat) (s : State),
     let q := sharedRun (.gret c) c 1 none (gretSrcs s c)
     let u := opened s q
     let x := getCtx s n
     c < 256 → clear s q = true → (getCore s c).running = some n →
     (∀ lv rest, x.gates = lv :: rest → x.level = x.gates.length + 1 → lv.cPriv < 4 →
       (∀ r ∈ maskRegs lv, bit lv.bank.pend r.val = false) →
       let y : Ctx := { x with gates := rest }
       let b := y.bankOf y.level
       ∃ t, exec (.gret c) s = .next t ∧ (getCtx t n).gates.length = rest.length ∧
         (∀ g, peekG t c g = if g ∈ maskRegs lv then lv.bank.g[g] else b.g[g]) ∧ (curBank t c).ia = lv.link ∧
         (curBank t c).fl = b.fl ||| lv.bank.fl ∧ (curBank t c).cc = lv.bank.cc ∧ (curBank t c).smode = lv.cSmode ∧
         (curBank t c).priv = lv.cPriv ∧ (curBank t c).akey = b.akey ∧ (curBank t c).a = b.a ∧ (curBank t c).te = b.te ∧
         (curBank t c).ct = b.ct ∧ (curBank t c).xb = b.xb ∧ keepsF u t c ∧ keepsMem u t c) ∧
     (∀ e, x.level = 1 → x.exc = some e → x.ovrp = false → checkBytes u c .read 0 e.frame.toNat 384 = .ok () →
       let f (i : Nat) := seeWord u c (e.frame.toNat + 8 * i)
       let y : Ctx := { x with exc := none }
       let b := y.bankOf y.level
       tagClass (f 4) = 10 → frameSpr (f 5) 64 = true → frameSpr (f 6) 24 = true → frameSpr (f 7) 10 = true →
       frameSpr (f 8) 12 = true →
       ∃ t, exec (.gret c) s = .next t ∧ (getCtx t n).exc = none ∧ (∀ g, peekG t c g = f (16 + g.val)) ∧
         (curBank t c).ia = BitVec.ofNat 40 (fld (f 4).pay 39 0) ∧ (curBank t c).ct = (f 5).pay ∧
         (curBank t c).xb = (f 6).pay.setWidth 24 ∧ (curBank t c).fl = (f 7).pay ∧ (curBank t c).te = (f 8).pay ∧
         (curBank t c).cc = fld (f 3).pay 15 14 ∧ (curBank t c).sig = bit (f 3).pay 13 ∧
         (curBank t c).uip = bit (f 3).pay 12 ∧ (curBank t c).smode = bit (f 3).pay 17 ∧
         (curBank t c).priv = b.priv ∧ (curBank t c).akey = b.akey ∧ (curBank t c).a = b.a ∧
         keepsF u t c ∧ keepsMem u t c))

/-- R298 to R314: CUST on a variant with the customer region, when its selector entry is valid, of its form and of its
privilege, and no register that its routine can read is pending: what its routine delivers is applied when it ends. A
routine of one END microword with one integer operation on ra and rb writes its result, tagged FIX, to rd, and nothing
else. The length 8 by which a FORM b10 body moves its base (log entry 120), and that the registers waited for are those
of the microwords that the routine can reach (16), are the model's choices. -/
def Obligations.CustomRoutine : Prop :=
  ∀ (c : Nat) (pre : List Byte) (sel : Byte) (body : CustBody) (s : State) (m : MicroRun),
    let q : Run := ⟨c, match body with | .rm _ m => some m.storage | _ => none, custLen pre body,
      custUnd (curBank s c).smode pre body,
      Tm.core (match body with | .rm _ m => memSrcs m | _ => []) (custSrcs s sel body),
      (Instr.cust c pre sel body).wf && custWf pre body⟩
    let u := opened s q
    let e := tget 0 s.boot.custSel sel.toNat
    let w := tget 0 s.boot.micro (csEntry e)
    let n := tget 0 s.boot.nano (mwNano w)
    clear s q = true → hasFp s = true → csValid e = true → csForm e = custForm body → (curBank s c).priv ≤ csLpriv e →
    anyPending u c (custSrcs u sel body) = false →
    (∀ rd y a, body = .rm rd y → eaOf u c 1 8 false y = .ok a →
      microRun u c body (some a) 2048 (csEntry e) 0 (MicroRun.start (curBank s c).cc) = .ok m →
      ∃ t, exec (.cust c pre sel body) s = .next t ∧ sidesG (microCommit u c m) t c [a] ∧
        keepsRest (microCommit u c m) t c) ∧
    ((∀ rd y, body ≠ .rm rd y) →
      microRun u c body none 2048 (csEntry e) 0 (MicroRun.start (curBank s c).cc) = .ok m →
      ∃ t, exec (.cust c pre sel body) s = .next t ∧ keepsG (microCommit u c m) t c ∧ keepsRest (microCommit u c m) t c) ∧
    (∀ rd ra rb a b, ∀ p ∈ [(1, IOp.add), (2, .sub), (3, .and), (4, .or), (5, .xor), (6, .shl), (7, .shr), (8, .sar), (9, .mul)],
      body = .rrr rd ra rb → rdG s c ra = .ok a → rdG s c rb = .ok b → mwSeq w = 3 → mwBsel w = 0 → mwWait w = 0 →
      nwItop n = p.1 → nwDcop n = 0 → nwFmop n = 0 → nwTrap n = 0 → nwSrca n = 0x39 → nwSrcb n = 0x3A →
      nwDest n = 0x38 → nwTsrc n = 0 → nwCcw n = false → nwFlg n = false →
      ∃ t, exec (.cust c pre sel body) s = .next t ∧ onlyG u t c rd (fix (intRes p.2 a.pay b.pay).val) ∧ keepsRest u t c)

-- pair words and repeated instructions

/-- R144: the short operations of a pair word, on readable FIX or RAW registers. R144 to R146: a pair word with two
defined, independent halves: both read the state before it, and both write. An exception of a half leaves nothing
written and names the word and the half. (No event falls inside an emulated half.) -/
def Obligations.PairWords : Prop :=
  (∀ (c : Nat) (rd rs : Reg) (s t : State) (a b : TWord),
     rdG s c rd = .ok a → rdG s c rs = .ok b →
     let run (k : Nat) := shortRun c ⟨k, rd, rs⟩ s t
     let out (r : Except Stop State) : Except Stop GenDone := r.map fun t => ⟨t, 0, false, 0⟩
     let imm : Word := (BitVec.ofNat 5 rs.val).signExtend 64
     run 0 = .ok ⟨t, 0, false, 0⟩ ∧ run 1 = .ok ⟨wrG t c rd b, 0, false, 0⟩ ∧
     run 0x0F = .ok ⟨wrG t c rd (fix (b.tag.setWidth 64)), 0, false, 0⟩ ∧
     run 0x0C = genArith c .add rd a b t ∧
     run 0x0D = genArith c .sub rd a b t ∧
     run 0x0E = genCmp c a b t ∧ run 0x15 = .ok ⟨wrG t c rd (fix imm), 0, false, 0⟩ ∧
     (isInt a = true →
       run 0x10 = out (intResult t c rd (intRes .add a.pay imm)) ∧
       run 0x11 = .ok ⟨setCc t c (if a.pay = imm then 0 else if BitVec.slt a.pay imm then 1 else 2), 0, false, 0⟩ ∧
       run 0x12 = out (intResult t c rd (intRes .shl a.pay (BitVec.ofNat 64 rs.val))) ∧
       run 0x13 = out (intResult t c rd (intRes .shr a.pay (BitVec.ofNat 64 rs.val))) ∧
       run 0x14 = out (intResult t c rd (intRes .sar a.pay (BitVec.ofNat 64 rs.val)))) ∧
     (isInt b = true → run 4 = out (intResult t c rd (intRes .sub 0 b.pay))) ∧
     (isInt a = true → isInt b = true →
       run 5 = .ok ⟨setCc t c (if a.pay = b.pay then 0 else if BitVec.slt a.pay b.pay then 1 else 2), 0, false, 0⟩ ∧
       ∀ p ∈ [(2, IOp.add), (3, .sub), (6, .and), (7, .or), (8, .xor), (9, .shl), (0x0A, .shr), (0x0B, .sar)],
         run p.1 = out (intResult t c rd (intRes p.2 a.pay b.pay)))) ∧
  (∀ (c : Nat) (w : BitVec 32) (s : State),
     let a := shortOf (w.toNat / 2 ^ 15 % 2 ^ 15)
     let b := shortOf (w.toNat % 2 ^ 15)
     let q : Run := ⟨c, none, 4, if (curBank s c).smode then some 0 else pairUnd a b, pairTm a b, (Instr.pairWord c false w).wf⟩
     let u := opened s q
     clear s q = true →
     (∀ x y, shortRun c a u u = .ok x → shortRun c b u x.s = .ok y →
       emuStop u q ((emuLeft u c).getD (x.emu + y.emu)) = none →
       ∃ t, exec (.pairWord c false w) s = .next t ∧ keepsG y.s t c ∧ keepsRest y.s t c) ∧
     (∀ e, shortRun c a u u = .error (.exc e) → emuStop u q e.emu = none →
       ∃ t, exec (.pairWord c false w) s = .next t ∧
         (getCore t c).exc = some ⟨(curBank s c).ia, e.code, e.info, e.detail, true, false⟩ ∧
         keepsG u t c ∧ keepsRest u t c) ∧
     (∀ x e, shortRun c a u u = .ok x → shortRun c b u x.s = .error (.exc e) →
       emuStop u q (if x.emu = 0 then e.emu else (emuLeft u c).getD (x.emu + e.emu)) = none →
       ∃ t, exec (.pairWord c false w) s = .next t ∧
         (getCore t c).exc = some ⟨(curBank s c).ia, e.code, e.info, e.detail, true, true⟩ ∧
         keepsG u t c ∧ keepsRest u t c))

/-- R133 to R135, R283: REPI and REPU run their instruction, each time advancing the index registers and taking 1 from
CT, until CT is 0, and then go on (no event falls inside an emulated iteration); REPI that is stopped by an event after an iteration stands at its own address. REPU
takes at most 64 iterations, within its cycle limit. -/
def Obligations.Repeat : Prop :=
  ∀ (c k : Nat) (op : RepOp) (iters : Nat) (s : State) (x : Nat → State) (n e : Nat → Nat) (p : Nat → Bool),
    (let q := repRun (.repi c op iters) c op
     let u := opened s q
     clear s q = true → repUnit u c op = .ok () → x 0 = u →
     (∀ i < k, (curBank (x i) c).ct ≠ 0 ∧ repOne c op (x i) = .ok ⟨x (i + 1), n i, p i, e i⟩ ∧
       emuCut ((eventAfter u c (startOf u q)).map (· - ((List.range i).map n).sum)) (e i) = none) →
     (∀ b, eventAfter u c (startOf u q) = some b → ((List.range k).map n).sum + 2 < b) →
     ((curBank (x k) c).ct = 0 → k ≤ max 1 iters →
       ∃ t, exec (.repi c op iters) s = .next t ∧ keepsG (x k) t c ∧ keepsRest (x k) t c ∧
         (curBank t c).ia = (curBank s c).ia + BitVec.ofNat 40 q.len) ∧
     ((curBank (x k) c).ct ≠ 0 → k = max 1 iters →
       ∃ t, exec (.repi c op iters) s = .next t ∧ keepsG (x k) t c ∧ keepsRest (x k) t c ∧
         (curBank t c).ia = (curBank s c).ia)) ∧
    (let q := repRun (.repu c op) c op
     let u := opened s q
     clear s q = true → repUnit u c op = .ok () → x 0 = u → k = (curBank s c).ct.toNat → k ≤ 64 →
     2 + k * (repMax u op + 1) ≤ 594 →
     (∀ i < k, (curBank (x i) c).ct ≠ 0 ∧ repuCheck (x i) c op 1 (repMems op) = .ok () ∧
       repOne c op (x i) = .ok ⟨x (i + 1), n i, p i, e i⟩) → (curBank (x k) c).ct = 0 →
     ∃ t, exec (.repu c op) s = .next t ∧ keepsG (x k) t c ∧ keepsRest (x k) t c ∧
       (curBank t c).ia = (curBank s c).ia + BitVec.ofNat 40 q.len)

/-- R126 to R151: a core runs what the bytes at its address spell. When they are an instruction, `runNext` is that
command; when byte `o` makes them undefined (by log entry 43, the first that no instruction allows), it is
UNDEFINED_INSTRUCTION with `o` in DETAIL, and nothing is written.
R126, R129 to R132: byte values and prefixes that no instruction begins with. R137, R139, R141: the bytes of ADD, SUB,
AND, DIV, CMP, ADDI, CMPI and LD8 at every value of their fields. R144: those of a pair word. R137, R141: a row of each
other format of register mode, IS, I8, N, RL, BR, AA, AM, MS, MM, MMP and MMM; R132, R140: LD8 under LONG; R133: LD8 under
REPI and REPU; R136: the forms of CUST. R147 to R150: a row of each format of storage mode with its specifier. -/
def Obligations.InstructionBytes : Prop :=
  (∀ (c n : Nat) (s : State) (i : Instr), instrAt s c n = .instr i → runNext c n s = exec i s) ∧
  (∀ (c n o : Nat) (s : State), instrAt s c n = .undefined o → coreReady s c none = true → inAbort s c = false →
     barred s c (startOf s ⟨c, none, 15, some o, Tm.core [], true⟩) = false →
     fetchFail s c (min 15 (o + 1)) = none →
     (∀ l ∈ fetchLines s (curBank s c).ia.toNat (min 15 (o + 1)), (getCore s c).lines.contains l = true) →
     ∃ t, runNext c n s = .next t ∧ (getCore t c).exc = some ⟨(curBank s c).ia, 1, 0, o, false, false⟩ ∧
       keepsG s t c ∧ keepsRest s t c) ∧
  (∀ (c n : Nat) (sm : Bool) (b d : Byte) (r : List Byte),
     (0xF4 ≤ b.toNat ∨ b = 0 ∨ 8 ≤ b.toNat ∧ b.toNat < 16 → decodeBytes c n sm (b :: r) = .undefined 0) ∧
     (b = 0xF0 ∨ b = 0xF1 → d = 0xF0 ∨ d = 0xF1 ∨ d = 0xF3 ∨ d.toNat < 16 → decodeBytes c n sm (b :: d :: r) = .undefined 1) ∧
     (b = 0xF2 ∨ 0x70 ≤ b.toNat ∧ b.toNat < 0xF0 → decodeBytes c n true (b :: r) = .undefined 0) ∧
     (b = 0xF0 ∨ b = 0xF1 ∨ b = 0xF2 → 0x80 ≤ d.toNat → d.toNat < 0xC0 → decodeBytes c n false (b :: d :: r) = .undefined 1)) ∧
  (∀ (c n : Nat) (rd ra rb : Reg) (imm : BitVec 14) (sc : BitVec 2) (disp : BitVec 18) (w : BitVec 32) (r : List Byte),
     let rr (f : Byte) :=
       let v := rd.val * 2048 + ra.val * 64 + rb.val * 2
       decodeBytes c n false (f :: BitVec.ofNat 8 (v / 256) :: BitVec.ofNat 8 v :: r)
     let ri (f : Byte) :=
       let v := rd.val * 2 ^ 19 + ra.val * 2 ^ 14 + imm.toNat
       decodeBytes c n false (f :: BitVec.ofNat 8 (v / 65536) :: BitVec.ofNat 8 (v / 256) :: BitVec.ofNat 8 v :: r)
     let four (v : Nat) := [BitVec.ofNat 8 (v / 2 ^ 24), BitVec.ofNat 8 (v / 65536), BitVec.ofNat 8 (v / 256), BitVec.ofNat 8 v] ++ r
     let rm (v : Nat) := decodeBytes c n false (0x43 :: BitVec.ofNat 8 (rd.val * 8) :: four v)
     rr 0x10 = .instr (.add c (.rr rd ra rb)) ∧ rr 0x11 = .instr (.sub c (.rr rd ra rb)) ∧
     rr 0x19 = .instr (.and c (.rr rd ra rb)) ∧
     rr 0x13 = (if rd.val % 2 = 1 then .undefined 1 else .instr (.div c (.rr rd ra rb))) ∧
     rr 0x18 = (if rd.val = 0 then .instr (.cmp c (.rr rd ra rb)) else .undefined 1) ∧
     ri 0x20 = .instr (.addi c rd ra imm) ∧
     ri 0x21 = (if rd.val = 0 then .instr (.cmpi c ra imm) else .undefined 1) ∧
     rm (ra.val * 2 ^ 23 + disp.toNat) = .instr (.ld8 c rd (.reg (.ptr ra disp))) ∧
     rm (2 ^ 30 + sc.toNat * 2 ^ 28 + ra.val * 2 ^ 23 + rb.val * 2 ^ 18 + disp.toNat) =
       .instr (.ld8 c rd (.reg (.ptrX sc ra rb disp))) ∧
     (w.toNat / 2 ^ 30 = 2 → decodeBytes c n false (four w.toNat) =
       (match pairUnd (shortOf (w.toNat / 2 ^ 15 % 2 ^ 15)) (shortOf (w.toNat % 2 ^ 15)) with
        | some o => .undefined o
        | none => .instr (.pairWord c false w)))) ∧
  (∀ (c n : Nat) (rd ra rb : Reg) (a1 a2 : Fin 4) (l1 l2 l3 : Fin 32) (sc f : BitVec 2) (d1 d2 d3 : BitVec 18) (x : Addr)
     (p q : Byte) (d20 : BitVec 20) (d24 : BitVec 24) (w : BitVec 64) (mask rnd : BitVec 4) (r : List Byte),
     let ok (bs : List Byte) (i : Instr) := decodeBytes c n false (bs ++ r) = .instr i
     let und (bs : List Byte) (o : Nat) := decodeBytes c n false (bs ++ r) = .undefined o
     let one (v : Nat) : List Byte := beBytes 1 v
     let sp (b : Reg) (d : BitVec 18) := beBytes 4 (b.val * 2 ^ 23 + d.toNat)
     let spx (b i : Reg) (d : BitVec 18) := beBytes 4 (2 ^ 30 + sc.toNat * 2 ^ 28 + b.val * 2 ^ 23 + i.val * 2 ^ 18 + d.toNat)
     let m (b : Reg) (d : BitVec 18) : Mem := .reg (.ptr b d)
     let rmx := 0x43 :: one (rd.val * 8) ++ spx ra rb d1
     let long (v : Nat) := 0x43 :: one (rd.val * 8) ++ beBytes 6 (v + x.toNat)
     let ld8x : RepOp := .ld 3 rd (.reg (.ptrX sc ra rb d1))
     let lens := one l1.val ++ one l2.val
     let two := sp ra d1 ++ sp rb d2
     let am := beBytes 2 (a1.val * 2 ^ 14 + f.toNat * 2 ^ 12 + l1.val * 2 ^ 6) ++ sp ra d1
     (if p.toNat < 2 then ok [0x01, p] (.mode c false p) else und [0x01, p] 1) ∧
     (let is := 0x02 :: one (rd.val * 8)
      ok (is ++ [0]) (.identUnitPresence c rd) ∧ ok (is ++ [1]) (.identContext c rd) ∧ ok (is ++ [2]) (.identVersions c rd) ∧
      ok (is ++ [3]) (.identPair c rd) ∧ (4 ≤ p.toNat → und (is ++ [p]) 2)) ∧
     ok [0x05] (.tyield c) ∧ ok [0x07] (.gret c) ∧
     ok (0x29 :: one (rd.val * 8) ++ beBytes 8 w.toNat) (.ldiw c rd w) ∧
     ok (0xC0 :: beBytes 3 (mask.toNat * 2 ^ 20 + d20.toNat)) (.brc c (.rel mask d20)) ∧
     ok (0xC1 :: beBytes 3 d24.toNat) (.brl c (.rel d24)) ∧
     ok (0x60 :: one (a1.val * 64 + a2.val * 16)) (.dadd c (.aa a1 a2)) ∧
     (if a1 = a2 then und (0x63 :: one (a1.val * 64 + a2.val * 16)) 1 else
       ok (0x63 :: one (a1.val * 64 + a2.val * 16)) (.ddiv c (.aa a1 a2) n)) ∧
     (if f = 3 then und (0x4E :: am) 1 else
       f ≠ 2 → ok (0x4E :: am) (.lda c a1 f (l1.val + 1) (m ra d1)) ∧ ok (0x4F :: am) (.sta c a1 f (l1.val + 1) (m ra d1))) ∧
     (let ms := 0x55 :: one l1.val ++ [p] ++ one (rnd.toNat * 16) ++ sp ra d1
      if p.toInt < -62 ∨ 62 < p.toInt then und ms 2 else if 10 ≤ rnd.toNat then und ms 3
      else ok ms (.dsrd c (l1.val + 1) p rnd (m ra d1))) ∧
     ok (0x50 :: lens ++ two) (.dadd c (.mm (l1.val + 1) (l2.val + 1) (m ra d1) (m rb d2))) ∧
     (32 ≤ p.toNat → und (0x50 :: p :: q :: two) 1) ∧
     (p.toNat < 32 → 32 ≤ q.toNat → und (0x50 :: p :: q :: two) 2) ∧
     ok (0x69 :: p :: q :: one l3.val ++ two)
       (.movp c (p.toNat + 1) (q.toNat + 1) (BitVec.ofNat 8 l3.val) (m ra d1) (m rb d2)) ∧
     ok (0x5A :: beBytes 2 (l1.val * 2 ^ 11 + l2.val * 2 ^ 6 + l3.val * 2) ++ two ++ sp rd d3)
       (.dadd c (.mmm (l1.val + 1) (l2.val + 1) (l3.val + 1) (m ra d1) (m rb d2) (m rd d3))) ∧
     ok (0xF2 :: long 0) (.ld8 c rd (.reg (.long x))) ∧
     ok (0xF2 :: long (2 ^ 47 + sc.toNat * 2 ^ 45 + ra.val * 2 ^ 40)) (.ld8 c rd (.reg (.longX sc ra x))) ∧
     und (0xF2 :: 0x10 :: lens) 1 ∧
     ok (0xF0 :: rmx) (.repi c ld8x n) ∧ ok (0xF1 :: rmx) (.repu c ld8x) ∧
     ok (0xF0 :: 0xF2 :: long (2 ^ 47 + sc.toNat * 2 ^ 45 + ra.val * 2 ^ 40)) (.repi c (.ld 3 rd (.reg (.longX sc ra x))) n) ∧
     und (0xF0 :: 0x43 :: one (rd.val * 8) ++ sp ra d1) 3 ∧
     ok [0xF3, p, 0] (.cust c [] p .none) ∧
     ok (0xF3 :: p :: 0x40 :: beBytes 2 (rd.val * 2 ^ 11 + ra.val * 2 ^ 6 + rb.val * 2)) (.cust c [] p (.rrr rd ra rb)) ∧
     ok (0xF3 :: p :: 0x80 :: one (rd.val * 8) ++ sp ra d1) (.cust c [] p (.rm rd (m ra d1))) ∧
     ok (0xF2 :: 0xF3 :: p :: 0x80 :: one (rd.val * 8) ++ beBytes 6 x.toNat) (.cust c [0xF2] p (.rm rd (.reg (.long x)))) ∧
     (0 < q.toNat % 64 ∨ 192 ≤ q.toNat → und [0xF3, p, q] 2)) ∧
  (∀ (c n : Nat) (rd ra b1 x1 b2 : Fin 16) (a1 : Fin 4) (l1 l2 l3 : Fin 32) (d1 d2 d3 : BitVec 12) (e p : Byte) (am : Fin 8)
     (ext : Bool) (r : List Byte),
     let ok (bs : List Byte) (i : Instr) := decodeBytes c n true (bs ++ r) = .instr i
     let und (bs : List Byte) (o : Nat) := decodeBytes c n true (bs ++ r) = .undefined o
     let rg (k : Fin 16) : Reg := Fin.ofNat 32 k.val
     let one (v : Nat) : List Byte := beBytes 1 v
     let s1 := beBytes 3 (am.val * 2 ^ 21 + b2n ext * 2 ^ 20 + b1.val * 2 ^ 16 + x1.val * 2 ^ 12 + d1.toNat) ++ (if ext then [e] else [])
     let mode : SMode := if am = 1 then .indirect else if am = 2 then .postInc else if am = 3 then .preDec else .based
     let m1 : SMem := ⟨mode, ext, b1, x1, BitVec.ofNat 20 (d1.toNat + if ext then e.toNat * 4096 else 0)⟩
     let s2 (d : BitVec 12) := beBytes 3 (b2.val * 2 ^ 16 + d.toNat)
     let m2 (d : BitVec 12) : Mem := .sto ⟨.based, false, b2, 0, BitVec.ofNat 20 d.toNat⟩
     let lens := one l1.val ++ one l2.val
     let bad : Bool := 4 ≤ am.val || 2 ≤ am.val && b1 = 0
     ok (0x10 :: one (rd.val * 16 + ra.val)) (.add c (.sr (rg rd) (rg ra))) ∧
     (let sx := one (rd.val * 16) ++ s1
      if bad then und (0x26 :: sx) 2 ∧ und (0x20 :: sx) 2
      else if am ≠ 0 ∧ x1 ≠ 0 then und (0x26 :: sx) 3 ∧ und (0x20 :: sx) 3
      else ok (0x26 :: sx) (.ld8 c (rg rd) (.sto m1)) ∧ ok (0x20 :: sx) (.add c (.sx (rg rd) m1))) ∧
     (am = 0 →
       ok (0x4E :: beBytes 2 (a1.val * 2 ^ 14 + l1.val * 2 ^ 6) ++ s1) (.lda c a1 0 (l1.val + 1) (.sto m1)) ∧
       ok (0x45 :: one l1.val ++ [1, 0x50] ++ s1) (.dsrd c (l1.val + 1) 1 5 (.sto m1)) ∧
       ok (0x40 :: lens ++ s1 ++ s2 d2) (.dadd c (.mm (l1.val + 1) (l2.val + 1) (.sto m1) (m2 d2))) ∧
       ok (0x51 :: lens ++ [p] ++ s1 ++ s2 d2) (.movp c (l1.val + 1) (l2.val + 1) p (.sto m1) (m2 d2)) ∧
       ok (0x4A :: beBytes 2 (l1.val * 2 ^ 11 + l2.val * 2 ^ 6 + l3.val * 2) ++ s1 ++ s2 d2 ++ s2 d3)
         (.dadd c (.mmm (l1.val + 1) (l2.val + 1) (l3.val + 1) (.sto m1) (m2 d2) (m2 d3))) ∧
       ok (0xF3 :: p :: 0x80 :: one (rd.val * 8) ++ s1) (.cust c [] p (.rm (rg rd) (.sto m1)))))

-- events of a core

/-- R342 to R348, R350: EXCEPTION_ENTRY of what the core samples first: its pending exception, a load that its level
found spoiled (R163), or BUDGET_OVERRUN. With a usable stack, a frame of 48 words is written below
the stack pointer and the handler starts at XENT with Supervisor privilege, SKEY and the frame's address in G1 and
G30. When the context is in its exception level already, when the code is MACHINE_CHECK or EXC_STACK, or when the
stack cannot take the frame, the context freezes: its ABORTED_FAULT record carries the code. -/
def Obligations.ExceptionEntry : Prop :=
  ∀ (c n : Nat) (s : State) (e : Pend),
    let k := getCore s c
    let x := getCtx s n
    let b := curBank s c
    let p := stackPtr x b
    let frame := p.pay.toNat - 384
    let enters := x.exc = none ∧ e.code ≠ 0x1E ∧ e.code ≠ 0x1A ∧ stackOk s c x p = true
    c < 256 → coreUp s c = true → k.preempt = false → k.verdict = none → stopDue s c = false → k.running = some n →
    entryOf s c = some e →
    (enters → 0xFE00000400 ≤ frame →
      ∃ t v, exec (.exceptionEntry c) s = .next t ∧ (getCore t c).exc = none ∧ (getCtx t n).exc = some v ∧
        v.frame.toNat = frame ∧ v.bank.ia = BitVec.ofNat 40 (fld (getCell s (c / 4)).ccfg0 39 0) ∧
        v.bank.priv = 1 ∧ v.bank.akey = fld (getCell s (c / 4)).ccfg1 51 48 ∧ v.bank.smode = false ∧
        v.bank.g[1] = ptr 5 false frame ∧ v.bank.g[30] = ptr 5 false frame ∧
        v.bank.xa = BitVec.ofNat 64 e.xa.toNat ∧ v.bank.xc = BitVec.ofNat 64 (e.detail % 2 ^ 32 * 65536 + e.info * 256 + e.code) ∧
        (∀ i < 48, some (rdWord t.mem (physOf (some (c / 4)) (frame + 8 * i))) = (frameWords s c x b e)[i]?)) ∧
    (¬enters →
      ∃ t r, exec (.exceptionEntry c) s = .next t ∧ (getCtx t n).st = .frozen ∧ (getCtx t n).freason = e.code ∧
        (getCore t c).running = none ∧ t.jrn.path = s.jrn.path ++ [r] ∧ r.status = 2 ∧ r.reason = e.code ∧
        r.orig = x.orig ∧ r.serial = x.serial ∧ t.mem = s.mem)

/-- R67, R68, R332: BUDGET_OVERRUN at a boundary where the context waits, once the verdict of a pre-read that has started
is there (R279), sets PS.OVR, records the exception and opens
the abort window of 7,600 cycles, of which those that the wait lasted after the counter's end are gone; STOP at its end
makes the transaction ABORTED_FAULT x0017 and frees the core. A byte of memory is as it was, or holds what the
instruction in progress would have written to it, and with no instruction in progress every byte is as it was once the
store buffer has drained. -/
def Obligations.BudgetEnd : Prop :=
  (∀ (c n : Nat) (s : State),
    let x := getCtx s n
    let k := getCore s c
    coreUp s c = true → c < 256 → k.running = some n → x.base.ovr = false → k.verdict = none →
    waitsAt s c n = true ∨ x.bcnt ≤ boundaryLag k →
    ∃ t, exec (.budgetOverrun c) s = .next t ∧ (getCtx t n).base.ovr = true ∧ (getCtx t n).ovrp = true ∧
      (getCtx t n).bcnt = 0 ∧ 
      (getCtx t n).win = 7600 - ((sampledAt k (max (boundary k) (k.freeAt + x.bcnt * 500)) - k.freeAt) / 500 - x.bcnt) ∧ (getCore t c).preWait = [] ∧ (getCore t c).fetchWait = [] ∧
      (getCtx t n).st = x.st ∧ keepsG s t c ∧ keepsA s t c ∧ keepsF s t c ∧ keepsMem s t c) ∧
  (∀ (c n : Nat) (s : State),
    let x := getCtx s n
    coreUp s c = true → c < 256 → (getCore s c).running = some n → x.base.ovr = true →
    ∀ reached, ∃ t r, exec (.stop c reached) s = .next t ∧ (getCtx t n).st = .ending ∧ (getCore t c).running = none ∧
      (getCore t c).sb = [] ∧ t.jrn.path = s.jrn.path ++ [r] ∧ r.status = 2 ∧ r.reason = 0x17 ∧ r.orig = x.orig ∧
      r.serial = x.serial ∧ r.body = [] ∧ ((getCore s c).cut = none → t.mem = (drainAll s c).mem) ∧
      ((getCore s c).sb = [] → ∀ a, rdByte t.mem a = rdByte s.mem a ∨
        ∃ b g, (true, a, b, g) ∈ reached.zip ((getCore s c).cut.getD []) ∧ rdByte t.mem a = b))

/-- R20, R276, R278: FAR_PRE_READ puts the words of the round into the far-read buffer, POISON x4 for the first of
them met by an uncorrectable error (that the first meets it is the model's choice, log entry 9); DRAM_LINE_FETCH gives the core the lines it waits for, or MACHINE_CHECK x27 when one
of them meets an uncorrectable error (R91); MESH_TRANSFER_DELIVERY
delivers the transfer that is due first, at its time. -/
def Obligations.FarEvents : Prop :=
  (∀ (c n : Nat) (s : State) (err : DramErr) (w : Nat) (r : List Nat),
    coreUp s c = true → (getCore s c).running = some n → n ≠ ownRec → (getCore s c).preWait = w :: r → w ∉ r →
    ∃ t, exec (.farPreRead c err) s = .next t ∧ (getCore t c).preWait = [] ∧
      tget nil (getCtx t n).frb w =
        (if err = .double then ⟨0xF4, BitVec.ofNat 64 (w * 8)⟩ else seeWord s c (w * 8)) ∧
      (∀ v ∈ r, tget nil (getCtx t n).frb v = seeWord s c (v * 8)) ∧
      keepsG s t c ∧ keepsRest s t c) ∧
  (∀ (c : Nat) (s : State) (err : DramErr),
    coreUp s c = true → (getCore s c).fetchWait ≠ [] → err ≠ .double →
    ∃ t, exec (.dramLineFetch c err) s = .next t ∧ (getCore t c).lines = (getCore s c).fetchWait ∧
      (getCore t c).fetchWait = [] ∧ keepsG s t c ∧ keepsRest s t c) ∧
  (∀ (c : Nat) (s : State), coreUp s c = true → (getCore s c).fetchWait ≠ [] → inAbort s c = false →
    ∃ t, exec (.dramLineFetch c .double) s = .next t ∧
      (getCore t c).exc = some ⟨(curBank s c).ia, 0x1E, 0x27, 0, false, false⟩ ∧ keepsG s t c ∧ keepsRest s t c) ∧
  (∀ (s : State) (x : Xfer),
    alive s = true → firstXfer s.mesh = some x →
    ∃ t, exec .meshTransferDelivery s = .next t ∧ t.mesh = s.mesh.erase x ∧ t.now = max s.now x.due ∧
      t.mem = s.mem ∧ t.cores = s.cores ∧ t.ctxs = s.ctxs)

-- the transaction engine

/-- R24, R35 to R39, R42, R48, R86, R402, R406, R501: a request from its last bit to its ACK or REF. TRQ stamps it with
ledger time, after the wake of a resting device. FRAME_CHECK_COMPLETE, 0.4 µs later, queues it in its port's queue of 32; with the queue full the port enters squall;
a malformed frame is dropped and counted. ADMISSION_DECISION gives the first queued request the outcome of `checks`.
DECISION_RELEASE at 1.1 µs turns an acceptance into a STAGING context. ACK and REF leave 1.6 µs after the stamp.
SQUALL_EXIT ends squall. The close guard admits LIVE pools with OPENFROM ≤ stamp < CLOSE alone. -/
def Obligations.RequestPath : Prop :=
  (∀ (p : Nat) (f : Trq) (s : State), alive s = true → portUp s p = true →
    let u := stir s (p + 1)
    ∃ t r, exec (.trq p f) s = .next t ∧ t.adm.reqs = s.adm.reqs ++ [r] ∧ r.port = p ∧ r.stamp = ledgerNow u ∧
      r.at' = u.now ∧ r.f = f ∧ r.st = .arrived ∧ keepsCores s t ∧ t.jrn = s.jrn ∧ keepsDevice s t) ∧
  (∀ (p : Nat) (s : State) (r : Request), alive s = true →
    (firstRq s.adm.reqs fun r => r.port = p && r.st = .arrived) = some r →
    (trqOk r.f = true → r.session ≠ 0 → ∃ t, exec (.frameCheckComplete p) s = .next t ∧
      t.adm.reqs = s.adm.reqs.map (fun q => if q = r then { r with st := .queued, inQueue := decide (queueLen s p < 32) || r.inQueue } else q) ∧
      t.now = max s.now (r.at' + 400000) ∧ (32 ≤ queueLen s p → (getPort t p).squall = true) ∧
      keepsCores s t ∧ t.jrn = s.jrn ∧ keepsDevice s t) ∧
    (p < 8 → trqOk r.f = false ∨ r.session = 0 → ∃ t, exec (.frameCheckComplete p) s = .next t ∧
      t.adm.reqs = s.adm.reqs.erase r ∧ counted s t 0x4001 (p + 1) ∧ keepsCores s t ∧ t.jrn = s.jrn ∧ keepsDevice s t)) ∧
  (∀ (s : State) (r : Request), alive s = true → (firstRq s.adm.reqs fun r => r.st = .queued) = some r →
    let u := fillUpdate (passTo s (s.adm.takenAt + 2000))
    let d := checks (withPlans u) r (squalled u r)
    ∃ t, exec .admissionDecision s = .next t ∧
      t.adm.reqs = s.adm.reqs.map (fun q => if q = r then { r with st := .decided, dec := d.1, plan := d.2 } else q) ∧
      t.now = max s.now (s.adm.takenAt + 2000) ∧ t.adm.takenAt = t.now ∧ t.adm.rows = s.adm.rows ∧
      keepsCores s t ∧ t.jrn = s.jrn ∧ keepsDevice s t) ∧
  (∀ (s : State) (r : Request), alive s = true → (firstRq s.adm.reqs fun r => r.st = .decided) = some r →
    (∀ n x, r.dec = .accept n → r.plan = some x →
      ∃ t, exec .decisionRelease s = .next t ∧
        getCtx t n = { x with
          acc := s.adm.accepted, floor := (rowOf t (ownStream s) x.orig).elim 0 fun e => e.2.floor } ∧
        t.adm.accepted = s.adm.accepted + 1 ∧ t.now = max s.now (r.at' + 1100000) ∧ counted s t 0x4000 4 ∧
        (∀ q ∈ t.adm.reqs, q.st = .decided → q ∈ s.adm.reqs) ∧
        (∀ m, m ≠ n → getCtx t m = getCtx s m) ∧ t.jrn = s.jrn ∧ keepsDevice s t) ∧
    (∀ reason detail, r.dec = .refuse reason detail →
      ∃ t, exec .decisionRelease s = .next t ∧
        t.adm.reqs = s.adm.reqs.map (fun q => if q = r then { r with st := .released, inQueue := false, plan := none } else q) ∧
        t.adm.rows = s.adm.rows ∧ keepsCores s t ∧ t.jrn = s.jrn ∧ keepsDevice s t)) ∧
  (∀ (p : Nat) (s : State) (r : Request), alive s = true → replyTo s r.session r.port = .port p →
    canSend s p 0 24 = true → storeOf s p = none → s.now ≤ r.at' + 1600000 →
    ((nextAnswer s p fun d => (match d with | .accept _ | .dupDone .. | .dupFly => true | _ => false)) = some r →
      ∃ t, exec (.ack p) s = .next t ∧ t.out = .ack p r.f.orig r.f.serial.toNat r.stamp :: s.out ∧
        t.now = r.at' + 1600000 ∧ t.adm.reqs = s.adm.reqs.erase r ∧ keepsCores s t ∧ t.jrn = s.jrn ∧ keepsDevice s t) ∧
    (∀ reason detail,
      (nextAnswer s p fun d => (match d with | .refuse .. => true | _ => false)) = some r → r.dec = .refuse reason detail →
      ∃ t, exec (.ref p) s = .next t ∧ t.out = .ref p r.f.orig r.f.serial.toNat reason detail r.stamp :: s.out ∧
        t.now = r.at' + 1600000 ∧ t.adm.reqs = s.adm.reqs.erase r ∧ counted s t 0x4000 5 ∧
        keepsCores s t ∧ t.jrn = s.jrn ∧ keepsDevice s t)) ∧
  (∀ (p : Nat) (s : State), let x := getPort s p
    alive s = true → x.squall = true → x.squallAt + 100000000 ≤ s.now →
    (∀ r ∈ s.adm.reqs, r.port = p → r.inQueue = false) → (inWindow (ledgerNow s) x.arrivals).length ≤ icap x / 2 →
    ∃ t, exec (.squallExit p) s = .next t ∧ (getPort t p).squall = false ∧ keepsCores s t ∧ keepsEngine s t ∧ keepsDevice s t) ∧
  (∀ (e : BitVec 256) (stamp : Nat), closeGuard e stamp = none ↔
    pgState e = 1 ∧ pgOpen e ≤ stamp ∧ stamp < pgClose e)

/-- R38: the checks in their order: readiness x08, the pair state x07, squall or a full queue x02, the duplicate index, the
program selector and its keys, the close guard, the partition's owner. Each earlier failure decides whatever the later
checks would say. -/
def Obligations.CheckOrder : Prop :=
  ∀ (s : State) (r : Request) (full : Bool),
    let d := (checks s r full).1
    let ws := selEntry s r.f.prog.toNat
    let e := poolOf s r.f.pool.toNat
    let look := lookup s r.f.orig r.f.serial.toNat
    (deviceReady s = false → d = .refuse 1 8) ∧
    (deviceReady s = true → pairAdmits s = false → d = .refuse 1 7) ∧
    (deviceReady s = true → pairAdmits s = true → full = true → d = .refuse 1 2) ∧
    (deviceReady s = true → pairAdmits s = true → full = false →
      (look = .flying → d = .dupFly) ∧ (∀ st q h, look = .done st q h → d = .dupDone st q h) ∧
      (look = .stale → d = .refuse 5 1) ∧ (∀ k, look = .busy k → d = .refuse 1 k) ∧
      (look = .go → selValid ws = false → d = .refuse 4 1) ∧
      (look = .go → selValid ws = true → (∃ x ∈ (selCopy ws).descs, stageKey r.f.payload x = none) → d = .refuse 4 2) ∧
      (look = .go → selValid ws = true → (∀ x ∈ (selCopy ws).descs, (stageKey r.f.payload x).isSome) →
        (pgState e ≠ 1 → d = .refuse 2 3) ∧ (pgState e = 1 → r.stamp < pgOpen e → d = .refuse 2 2) ∧
        (pgState e = 1 → pgOpen e ≤ r.stamp → pgClose e ≤ r.stamp → d = .refuse 2 1) ∧
        (closeGuard e r.stamp = none → ownsPart s (pgPart e) = false → d = .refuse 1 7) ∧
        (∀ n, d = .accept n → closeGuard e r.stamp = none ∧ ownsPart s (pgPart e) = true ∧
          bit s.adm.fullCls (selCopy ws).cls = false)))

/-- R63 to R65, R328: STAGING_RECORD_ISSUE sends the next record of the lane's first STAGING context on its way, judged at
its issue. STAGING_RECORD_ARRIVAL writes its words, with their tags, to the record's block, or POISON x3 throughout when
the check refused it or a word met an uncorrectable error; the last record makes the context READY. STAGING_START makes a
context without records READY at its release time. -/
def Obligations.Staging : Prop :=
  (∀ (lane n : Nat) (s : State) (x : Ctx), alive s = true → cellAwake s lane = true → (getCore s lane).stgFly = none →
    (firstStaging s lane fun x => x.staged < x.sel.nstg) = some (n, x) →
    let at' := x.relAt - (x.sel.nstg - x.staged) * 320000
    let d := x.sel.descs.getD x.staged 0
    let v := rangeFail (passTo s at') ⟨some (lane / 4), x.sel.priv, x.sel.akey⟩ .read (stageAddr x.payload d) (sdLen d)
    ∃ t, exec (.stagingRecordIssue lane) s = .next t ∧
      (getCore t lane).stgFly = some ⟨n, x.staged, max at' s.now + 320000, v.isSome⟩ ∧ t.now = max s.now at' ∧
      t.ctxs = s.ctxs ∧ t.mem = s.mem ∧ keepsEngine s t ∧ keepsDevice s t) ∧
  (∀ (lane : Nat) (bad : List Nat) (s : State) (f : Flight), let x := getCtx s f.n
    alive s = true → (getCore s lane).stgFly = some f → x.st = .staging → x.lane = lane →
    let d := x.sel.descs.getD f.i 0
    let a := stageAddr x.payload d
    let p := winBase (lane / 4) + 0x40000 + 256 * x.recBlks.getD f.i 0
    ∃ t, exec (.stagingRecordArrival lane bad) s = .next t ∧ (getCore t lane).stgFly = none ∧
      (∀ j < sdLen d / 8, rdWord t.mem (p + 8 * j) =
        if f.fail = true ∨ bad ≠ [] then ⟨0xF3, BitVec.ofNat 64 (a + 8 * j)⟩
        else rdWord s.mem (physOf (some (lane / 4)) (a + 8 * j))) ∧
      (∀ b, b < p ∨ p + sdLen d ≤ b → rdByte t.mem b = rdByte s.mem b) ∧
      (getCtx t f.n).staged = f.i + 1 ∧ (getCtx t f.n).st = (if x.sel.nstg ≤ f.i + 1 then .ready else .staging) ∧
      keepsEngine s t ∧ keepsDevice s t) ∧
  (∀ (lane n : Nat) (s : State) (x : Ctx), alive s = true → cellAwake s lane = true →
    (firstStaging s lane fun x => x.sel.nstg = 0) = some (n, x) →
    ∃ t, exec (.stagingStart lane) s = .next t ∧ (getCtx t n).st = .ready ∧ t.now = max s.now x.relAt ∧
      t.mem = s.mem ∧ keepsEngine s t ∧ keepsDevice s t)

/-- R59, R76 to R80: the commit path. JOURNAL_RECORD_READY puts the next record before the chain engine and frees its
context. CHAIN_TAKE takes the ready record of the earliest slot: it gets the next SEQ of its stream and the chain value
SHA3-256(H(n-1), header, body), and joins the ring. RING_WRITE_COMPLETE completes its local write: its bytes stand in
the ring from its place on, past the ring's end at its base, and no other byte changes. TRP, on a port free of an
earlier TRP, sends the reply due, with STATUS, SEQ, the hash excerpt, the stamp and the reply items. Of the model's
choice are the place at the ring's tail (log entry 101), that the completion is counted at the take (59) and when the
reply falls due (32). -/
def Obligations.CommitPath : Prop :=
  (∀ (s : State) (r : Rec), alive s = true → leastRec s.jrn.path (fun r => !r.ready) (·.readyAt) = some r →
    ∃ t, exec .journalRecordReady s = .next t ∧ t.jrn.path = putRec s.jrn.path r { r with ready := true } ∧
      t.jrn.ring = s.jrn.ring ∧ t.now = max s.now r.readyAt ∧
      (∀ x, r.tx = some x → (getCtx s x.record).st = .ending → getCtx t x.record = Ctx.free) ∧
      (∀ c, getCore t c = getCore s c ∨ ∃ n, getCore t c = { getCore s c with
        banks := (getCore s c).banks.erase n, fpBanks := (getCore s c).fpBanks.erase n,
        far := forgetFar (getCore s c).far n }) ∧
      t.mem = s.mem ∧ t.adm = s.adm ∧ keepsDevice s t) ∧
  (∀ (s : State) (r : Rec), alive s = true → leastRec s.jrn.path (·.ready) (·.slot) = some r →
    let unsent := fun (rs : List Rec) => rs.map fun q => { q with sentAt := 0 }
    ∃ t r', exec .chainTake s = .next t ∧ t.jrn.path = s.jrn.path.erase r ∧
      unsent t.jrn.ring = unsent (s.jrn.ring ++ [r']) ∧ r'.place = s.jrn.tail ∧
      r'.seq = nextSeq s.jrn r.stream ∧ r'.prev = lastH s.jrn r.stream ∧
      r'.h = sha3 (lastH s.jrn r.stream ++ recHeader r' ++ r.body) ∧ r'.body = r.body ∧ r'.status = r.status ∧
      r'.orig = r.orig ∧ r'.serial = r.serial ∧ r'.tx = r.tx ∧
      nextSeq t.jrn r.stream = r'.seq + 1 ∧ lastH t.jrn r.stream = r'.h ∧
      (∀ st, st < 2 → r.stream < 2 → st ≠ r.stream → nextSeq t.jrn st = nextSeq s.jrn st ∧ lastH t.jrn st = lastH s.jrn st) ∧
      (r.tx.isSome → counted s t 0x4000 (6 + r.status)) ∧ keepsCores s t ∧
      keepsDevice s { t with pair := { t.pair with sending := s.pair.sending } }) ∧
  (∀ (s : State) (r : Rec), alive s = true → leastRec s.jrn.ring (fun r => !r.ringDone) (·.ringAt) = some r →
    r.kind ≠ 0x13 → ¬(s.boot.retiring = true ∧ lifeEnd r = true) →
    let bs := recBytes r
    let g := jsealRange s.prot.jseal
    ∃ t, exec .ringWriteComplete s = .next t ∧
      t.jrn.ring = putRec s.jrn.ring r { r with ringDone := true, ringAt := s.now } ∧ t.jrn.path = s.jrn.path ∧
      (r.place < g.2 → bs.length ≤ g.2 →
        (∀ i (h : i < bs.length), rdByte t.mem (g.1 + (r.place + i) % g.2) = bs[i]) ∧
        ∀ b, (∀ i < bs.length, b ≠ g.1 + (r.place + i) % g.2) → rdByte t.mem b = rdByte s.mem b) ∧
      t.cores = s.cores ∧ t.ctxs = s.ctxs ∧ t.cells = s.cells ∧ t.adm = s.adm ∧ keepsDevice s t) ∧
  (∀ (p : Nat) (s : State) (r : Rec) (x : TxRef), alive s = true → pst s ≠ .fenced → storeOf s p = none →
    nextTrp s p = some r → nextDup s p = none → r.tx = some x → replyTo s x.session x.port = .port p →
    let m := trpOf r x
    canSend s p 0 (40 + m.items.length) = true → s.now ≤ trpDue r → (getPort s p).trpEnd ≤ trpDue r →
    (r.sent = true → r.ackAt ≤ r.sentAt + 1340000) →
    ledgerAt s (trpDue r + wirePs (getPort s p) (48 + m.items.length)) ≤ x.stamp + classBound (r.prog / 16384) →
    ∃ t, exec (.trp p) s = .next t ∧ t.out = .trp p m :: s.out ∧ t.now = trpDue r ∧ m.status = r.status ∧
      m.seq = r.seq ∧ m.excerpt = field r.h 0 8 ∧ m.stamp = x.stamp ∧
      t.adm.rows = (closeSlot s r.stream r.orig r.serial r.status r.seq (excerptOf r)).adm.rows ∧
      t.jrn.path = s.jrn.path ∧ keepsCores s t ∧ keepsDevice s t)

/-- R47 to R50, R54, R55: POOL_GATE_WRITE and SELECTOR_WRITE that their conditions admit write a system record and wait
for W; the tables stay until POOL_GATE_CHANGE at W. A write with a reserved bit or encoding, or of a selector that R54
refuses, counts as a refused write; one refused by R49, for want of room or in the pair state changes nothing. The
items of the two records (log entry 22) and that a write is judged by the entry as the changes before it leave it
(`poolAhead`, log entry 64) are the model's choices. -/
def Obligations.GateAndSelector : Prop :=
  (∀ (pool : BitVec 16) (v : BitVec 256) (s : State), let n := pool.toNat
    let e := poolAhead s n
    let w := slotW s (claimSlot s)
    let new := pgNew v (bit e 247 && !(decide (pgState e = 0) && decide (pgState v = 1))) w
    let room := sysRoom s (mkItem 0x8011 (beBytes 8 n ++ beBytes 8 w ++ beBytes 32 new.toNat)).length
    let ok := pgValid v && room && writesAllowed s && canJournal s && primaryFor s (pgPart e) && pgAllowed s n w e v
    alive s = true →
    (ok = true → ∃ t r, exec (.poolGateWrite pool v) s = .next t ∧ t.jrn.path = s.jrn.path ++ [r] ∧ r.kind = 0x11 ∧
      r.pool = n ∧ r.body = mkItem 0x8011 (beBytes 8 n ++ beBytes 8 w ++ beBytes 32 new.toNat) ∧
      t.adm.changes = s.adm.changes ++ [⟨some n, none, new, [], w⟩] ∧ t.adm.pools = s.adm.pools ∧
      keepsCores s t ∧ keepsDevice s t) ∧
    (pgValid v = false → exec (.poolGateWrite pool v) s = .next (refuse s)) ∧
    (pgValid v = true → ok = false → exec (.poolGateWrite pool v) s = .next s)) ∧
  (∀ (prog : BitVec 12) (ws : List Word) (s : State), let n := prog.toNat
    let w := slotW s (claimSlot s)
    let data := beBytes 8 n ++ beBytes 8 w ++ ws.flatMap wordBytes
    let ok := selOk s.part.variant ws && sysRoom s (mkItem 0x8012 data).length && writesAllowed s && canJournal s
    alive s = true →
    (ok = true → ∃ t r, exec (.selectorWrite prog ws) s = .next t ∧ t.jrn.path = s.jrn.path ++ [r] ∧ r.kind = 0x12 ∧
      r.prog = n ∧ r.body = mkItem 0x8012 data ∧ t.adm.changes = s.adm.changes ++ [⟨none, some n, 0, ws, w⟩] ∧
      t.adm.sels = s.adm.sels ∧ keepsCores s t ∧ keepsDevice s t) ∧
    (selOk s.part.variant ws = false → exec (.selectorWrite prog ws) s = .next (refuse s)) ∧
    (selOk s.part.variant ws = true → ok = false → exec (.selectorWrite prog ws) s = .next s)) ∧
  (∀ (s : State) (c : Change), alive s = true →
    s.adm.changes.foldl (fun (m : Option Change) c =>
      match m with | some b => if c.w < b.w then some c else m | none => some c) none = some c →
    ∃ t, exec .poolGateChange s = .next t ∧ t.adm.changes = s.adm.changes.erase c ∧ t.now = atLedger s c.w ∧
      (∀ p, c.pool = some p → poolOf t p = c.entry ∧ ∀ q, q ≠ p → poolOf t q = poolOf s q) ∧
      (∀ n, c.pool = none → c.prog = some n → selEntry t n = c.words) ∧
      keepsCores s t ∧ t.jrn = s.jrn ∧ keepsDevice s t)

/-- R85, R407: the drain. JRD sends the next record of a stream to an ACTIVE drain session, whole and in SEQ order. JDA
above the session's last and not above what was sent is kept, and may reclaim (a record that waited for room, R84, is
then written). JDR sets the session's pointer back, not below the oldest unreclaimed record. A JDA that does not rise,
a JDR above the pointer, and either of a record not yet sent are counted and change nothing else. -/
def Obligations.Drain : Prop :=
  (∀ (p stream : Nat) (s : State) (x : Session) (r : Rec), alive s = true → pst s ≠ .fenced →
    activeSession s p = some x → x.store = [] → bit (getPort s p).pcfg 38 = true → stream < 2 →
    drainsStream s x stream = true →
    (s.jrn.ring.find? fun r => r.stream = stream && r.seq = drainAt s x stream) = some r →
    (if stream = ownStream s then releasable s r else r.ringDone) = true →
    (stream = ownStream s → ∀ h, s.jrn.halted = some h → drainAt s x stream < h) →
    canSend s p 1 (16 + (recBytes r).length) = true →
    ∃ t, exec (.jrd p stream) s = .next t ∧ t.out = .jrd p stream (drainAt s x stream) (recBytes r) :: s.out ∧
      t.sessions = (putSession s (sentRec x stream (drainAt s x stream))).sessions ∧
      keepsCores s t ∧ keepsEngine s t ∧ keepsDevice s t) ∧
  (∀ (p : Nat) (seq : Word) (stream : Byte) (s : State) (x : Session), alive s = true → portUp s p = true →
    activeSession s p = some x → stream.toNat < 2 →
    let st := stream.toNat
    let q := seq.toNat
    (jdaOf x st < q → q ≤ topOf x st → ∃ t, exec (.jda p seq stream true) s = .next t ∧
      t.sessions = (putSession s (setJda x st q)).sessions ∧ (x.id, st, q) ∈ t.jrn.jdas ∧
      keepsCores s t ∧
      (s.boot.debugRec = [] → s.pair.soloOwed = false → s.pair.rejoinOwed = false →
        t.jrn.path = s.jrn.path ∧ keepsDevice s t)) ∧
    (q ≤ jdaOf x st ∨ topOf x st < q → ∃ t, exec (.jda p seq stream true) s = .next t ∧ counted s t 0x4008 (p + 1) ∧
      t.sessions = s.sessions ∧ keepsCores s t ∧ keepsEngine s t ∧ keepsDevice s t) ∧
    (q < drainAt s x st ∨ q = drainAt s x st ∧ q ≤ topOf x st → ∃ t, exec (.jdr p seq stream true) s = .next t ∧
      t.sessions = (putSession s (setPtr x st (max q (reclaimedOf s.jrn st + 1)))).sessions ∧
      keepsCores s t ∧ keepsEngine s t ∧ keepsDevice s t) ∧
    (drainAt s x st < q ∨ q = drainAt s x st ∧ topOf x st < q → ∃ t, exec (.jdr p seq stream true) s = .next t ∧ counted s t 0x4008 (p + 1) ∧
      t.sessions = s.sessions ∧ keepsCores s t ∧ keepsEngine s t ∧ keepsDevice s t))

-- the Tranil ports

/-- R386 to R388, R391, R410, R416, R418: training. LANE_SIGNAL_DETECT starts it on an enabled port in DETECT.
NEGOTIATE_COMPLETE takes the highest generation in both sets and the widest width in both sets whose lanes completed,
the device's sets being those of PCFG when the training began; with none the port waits again. A failed EQUALIZE tries
the next lower common generation; T1 has no equalization. INIT, exchanged for the device's own, brings the port UP with
the far end's credits and those its flit returns; it hails at once, and M0 UP locks the pair's LK fields. Each is a
signal on the port and wakes the device (`hear`, R501). -/
def Obligations.Training : Prop :=
  ∀ (p : Nat) (s : State), portsRun s = true →
    let x := getPort s p
    let u := hear s p
    (portExists s p = true → bit x.pcfg 29 = true → x.ls = .detect →
      ∃ t, exec (.laneSignalDetect p) s = .next t ∧ (getPort t p).ls = .negotiate ∧ (getPort t p).train = x.pcfg ∧
        keepsAll s t ∧ (s.pwr.entering = none →
          getPort t p = { x with ls := .negotiate, train := x.pcfg } ∧ onlyPort s t p)) ∧
    (∀ (gens widths lanes : BitVec 3) (rev : Bool) (inv : BitVec 4),
      let both := fun g : Nat => 1 ≤ g ∧ g ≤ 3 ∧ (p = 8 → g ≠ 1) ∧ bit x.train (32 + g) = true ∧ bit gens (g - 1) = true
      let wide := fun w : Nat => w ≤ 2 ∧ (p = 8 → w = 2) ∧ bit x.train (30 + w) = true ∧ bit widths w = true ∧ bit lanes w = true
      x.ls = .negotiate →
      (∀ g w : Nat, both g → (∀ h, both h → h ≤ g) → wide w → (∀ v, wide v → v ≤ w) →
        ∃ t, exec (.negotiateComplete p gens widths lanes rev inv) s = .next t ∧
          (getPort t p).ls = (if g = 1 then .align else .equalize) ∧ (getPort t p).gen = g ∧ (getPort t p).width = 2 ^ w ∧
          (getPort t p).rev = rev ∧ (getPort t p).inv = inv ∧ (∀ h, h ∈ (getPort t p).common ↔ both h ∧ h < g) ∧
          (getPort t p).pcfg = x.pcfg ∧ onlyPort u t p ∧ keepsAll s t ∧ keepsPlane u t) ∧
      ((∀ g, ¬both g) ∨ (∀ w, ¬wide w) →
        ∃ t, exec (.negotiateComplete p gens widths lanes rev inv) s = .next t ∧
          (getPort t p).ls = (if bit x.pcfg 29 then .detect else .disabled) ∧ (getPort t p).gen = 0 ∧
          onlyPort u t p ∧ keepsAll s t ∧ keepsPlane u t)) ∧
    (x.ls = .equalize →
      (∃ t, exec (.equalizeComplete p true) s = .next t ∧ getPort t p = { x with ls := .align } ∧
        onlyPort u t p ∧ keepsAll s t ∧ keepsPlane u t) ∧
      (∀ g r, x.common = g :: r → ∃ t, exec (.equalizeComplete p false) s = .next t ∧
        getPort t p = { x with ls := if g = 1 then .align else .equalize, gen := g, common := r } ∧
        onlyPort u t p ∧ keepsAll s t ∧ keepsPlane u t) ∧
      (x.common = [] → ∃ t, exec (.equalizeComplete p false) s = .next t ∧
        (getPort t p).ls = (if bit x.pcfg 29 then .detect else .disabled) ∧ (getPort t p).pcfg = x.pcfg ∧
        onlyPort u t p ∧ keepsAll s t ∧ keepsPlane u t)) ∧
    (∀ (h : FlitHdr) (c0 c1 c2 c3 : BitVec 16), h.port = p → x.ls = .align → linkQuiet s p →
      ∃ t, exec (.init h c0 c1 c2 c3) s = .next t ∧ (getPort t p).ls = .up ∧
        t.out = .init p (ownCredits p) :: u.out ∧
        (getPort t p).credits = [c0.toNat + fld h.credit 31 24, c1.toNat + fld h.credit 23 16,
          c2.toNat + fld h.credit 15 8, c3.toNat + fld h.credit 7 0] ∧ (getPort t p).replay = [] ∧
        (getPort t p).sstate = 1 ∧ (getPort t p).hailAt = some u.now ∧ (getPort t p).gen = x.gen ∧
        (getPort t p).width = x.width ∧ (getPort t p).pcfg = x.pcfg ∧
        t.pair = { s.pair with locked := s.pair.locked || decide (p = 8) } ∧
        onlyPort u t p ∧ keepsCores s t ∧ keepsEngine s t ∧ keepsPlane u t ∧ t.prot = s.prot ∧ t.time = s.time)

/-- R389, R413: LOSS_OF_LOCK puts an UP port in RECOVER with its flits kept; RELOCK within 10 µs brings it back at its
generation and width and replays from the oldest flit; RECOVER_TIMEOUT takes it DOWN: its session is PARKED from then on,
and the port waits in DETECT. PARK_WINDOW_EXPIRY ends a parked session 500 ms after it was parked. Electrical idle (R390,
R502): once IDLE_REQ and IDLE_ACK have gone both ways with no data flit unacknowledged, an UP port is idle; M0 stays out
of it while a partner is joined. It is UP again 1 µs after the first transition, from standby 10 µs after it. Flits and
signals wake the device (`hear`, `hearCtl`, R501), but for those that an entry in progress awaits (log entry 109). -/
def Obligations.LockLoss : Prop :=
  (∀ (p : Nat) (s : State), portsRun s = true →
    let x := getPort s p
    (x.ls = .up → ∃ t, exec (.lossOfLock p) s = .next t ∧ getPort t p = { x with ls := .recover, recoverAt := s.now } ∧
      onlyPort s t p ∧ keepsAll s t ∧ keepsPlane s t) ∧
    (x.ls = .recover → s.now < x.recoverAt + 10000000 →
      ∃ t, exec (.relock p) s = .next t ∧ (getPort t p).ls = .up ∧ (getPort t p).gen = x.gen ∧
        (getPort t p).width = x.width ∧ (getPort t p).session = x.session ∧
        (∀ f r, x.replay = f :: r → ∃ l, t.out = l ++ .replay p f.seq :: (hear s p).out) ∧
        (linkQuiet s p → onlyPort (hear s p) t p ∧ keepsAll s t ∧ keepsPlane (hear s p) t)) ∧
    (x.ls = .recover → p < 8 →
      ∃ t, exec (.recoverTimeout p) s = .next t ∧ t.now = max s.now (x.recoverAt + 10000000) ∧
        (getPort t p).ls = (if bit x.pcfg 29 then .detect else .disabled) ∧ (getPort t p).replay = [] ∧
        (getPort t p).session = 0 ∧ (getPort t p).sstate = 0 ∧
        (∀ y, (s.sessions.find? fun z => z.id = x.session) = some y → y.st = 3 →
          ∃ v, (t.sessions.find? fun z => z.id = x.session) = some v ∧ v.st = 4 ∧ v.parkedAt = t.now ∧ v.peer = y.peer ∧
            v.wins = [] ∧ (x.replay = [] → v.store = y.store)) ∧
        keepsCores s t ∧ keepsEngine s t ∧ t.pair = s.pair ∧ t.prot = s.prot)) ∧
  (∀ (session : BitVec 32) (s : State) (y : Session), s.phase = .running →
    (s.sessions.find? fun y => y.id = session.toNat && y.st = 4) = some y →
    ∃ t, exec (.parkWindowExpiry session) s = .next t ∧ t.now = max s.now (y.parkedAt + 500000000000) ∧
      t.sessions = s.sessions.filter (fun z => z.id ≠ session.toNat) ∧ t.ports = s.ports ∧ keepsAll s t ∧ keepsPlane s t) ∧
  (∀ (p : Nat) (s : State), let x := getPort s p
    let u := hearCtl s p
    portsRun s = true → x.ls = .up →
    (∀ h : FlitHdr, let y := addCredits (ackFlits x h.aseq) h.credit
      h.port = p → y.replay = [] → h.nak = false → linkQuiet s p → (p = 8 → joined s = false ∨ bit s.pair.cfg 63 = false) →
      (∃ t, exec (.idleReq h) s = .next t ∧
        t.out = (if x.idleAsked then .idleAck p :: u.out else .idleReq p :: .idleAck p :: u.out) ∧
        getPort t p = Port.idled { y with idleHeard := true, idleAsked := true } ∧
        (x.idleAcked = true → (getPort t p).idle = true) ∧ onlyPort s t p ∧ keepsAll s t ∧ keepsPlane u t) ∧
      (x.idleAsked = true →
        ∃ t, exec (.idleAck h) s = .next t ∧ getPort t p = Port.idled { y with idleAcked := true } ∧
          (x.idleHeard = true → (getPort t p).idle = true) ∧ (getPort t p).ls = .up ∧
          t.out = u.out ∧ onlyPort s t p ∧ keepsAll s t ∧ keepsPlane u t)) ∧
    (x.idle = true → ∃ t, exec (.idleExit p) s = .next t ∧ (getPort t p).idle = false ∧ (getPort t p).ls = .up ∧
      (s.pwr.cur = 0 → t.now = s.now + (if x.standby then 10000000 else 1000000)) ∧
      (linkQuiet s p → keepsAll s t ∧ (s.pwr.entering = none → onlyPort s t p))))

/-- R384, R391 to R394: flits, while nothing else waits to leave the port. A data flit whose check fails, or that an
uncorrectable codeword of T3 touched, is discarded, counted and logged (code x18), and NAK is sent once;
a good one in sequence is accepted; a good one out of sequence asks for a replay once. Its ASEQ acknowledges and its
credits come back. An idle flit is never sequenced. NAK and REPLAY_TIMEOUT (20 µs) replay from the oldest flit kept; the
fourth in a row without progress puts the port in RECOVER. -/
def Obligations.Flits : Prop :=
  ∀ (p : Nat) (s : State), portsRun s = true → (getPort s p).ls = .up →
    let x := getPort s p
    let c := hearCtl s p
    let hearAs := fun bs : List Byte => if flKind bs = 1 then hear s p else c
    let nakOnce := fun u t : State =>
      t.out = (if x.nakSent then u.out else .flitNak p x.rxSeq :: u.out) ∧ (getPort t p).nakSent = true
    let took := fun (t : State) (bs : List Byte) =>
      (∀ i < 4, credit (getPort t p).credits i = credit x.credits i + field bs (248 + i) 1) ∧
      (∀ f ∈ x.replay, f.seq = flAseq bs →
        (getPort t p).replay = (x.replay.dropWhile fun f => f.seq ≠ flAseq bs).drop 1 ∧ (getPort t p).replays = 0)
    let replayed := fun (u t : State) (y : Port) => ∀ f r, y.replay = f :: r →
      (y.replays < 3 → t.out = .replay p f.seq :: u.out ∧ (getPort t p).replays = y.replays + 1 ∧
        (getPort t p).ls = .up ∧ counted s t 0x4004 (p + 1)) ∧
      (3 ≤ y.replays → t.out = u.out ∧ (getPort t p).ls = .recover ∧ (getPort t p).replay = y.replay)
    (∀ bs fec, flitLost x fec bs = true →
      (∃ t, exec (.dataFlit p ⟨fec, bs⟩) s = .next t ∧ nakOnce (hearAs bs) t ∧ (getPort t p).rxSeq = x.rxSeq ∧
        counted s t 0x4003 (p + 1) ∧ t.baro.last = 0x18 ∧ onlyPort (hearAs bs) t p ∧ keepsAll s t ∧
        t.pwr = (hearAs bs).pwr) ∧
      (∃ t, exec (.idleFlit p ⟨fec, bs⟩) s = .next t ∧ t.out = c.out ∧ counted s t 0x4003 (p + 1) ∧ t.baro.last = 0x18 ∧
        t.ports = s.ports ∧ t.sessions = s.sessions ∧ keepsAll s t ∧ t.pwr = c.pwr)) ∧
    (∀ bs fec, flitLost x fec bs = false → flNak bs = false → linkQuiet s p →
      (flKind bs = 1 → flSeq bs = x.rxSeq + 1 → fragments bs 30 8 = [] →
        ∃ t, exec (.dataFlit p ⟨fec, bs⟩) s = .next t ∧ (getPort t p).rxSeq = x.rxSeq + 1 ∧ (getPort t p).nakSent = false ∧
          took t bs ∧ t.out = (hear s p).out ∧ onlyPort (hear s p) t p ∧ keepsAll s t ∧ keepsPlane (hear s p) t) ∧
      (flKind bs = 1 → flSeq bs ≠ x.rxSeq + 1 →
        ∃ t, exec (.dataFlit p ⟨fec, bs⟩) s = .next t ∧ nakOnce (hear s p) t ∧ (getPort t p).rxSeq = x.rxSeq ∧ took t bs ∧
          onlyPort (hear s p) t p ∧ keepsAll s t ∧ keepsPlane (hear s p) t) ∧
      (∃ t, exec (.idleFlit p ⟨fec, bs⟩) s = .next t ∧ (getPort t p).rxSeq = x.rxSeq ∧ took t bs ∧ t.out = c.out ∧
        onlyPort s t p ∧ keepsAll s t ∧ keepsPlane c t)) ∧
    (∀ aseq : BitVec 12, (ackFlits x aseq).replay ≠ [] → linkQuiet s p →
      ∃ t, exec (.nak p aseq) s = .next t ∧ replayed c t (ackFlits x aseq) ∧ onlyPort s t p ∧ keepsAll s t ∧
        t.baro = c.baro ∧ t.pwr = c.pwr) ∧
    (∀ f r, x.replay = f :: r →
      ∃ t, exec (.replayTimeout p) s = .next t ∧ replayed s t x ∧ t.now = max s.now (f.at' + 20000000) ∧
        onlyPort s t p ∧ keepsAll s t ∧ t.baro = s.baro ∧ t.pwr = s.pwr)

/-- R410 to R412, R418: HAIL, once it holds the credit, carries the serial, the side, the link and a fresh nonce, at once
and then every 1 ms. The partner's HAIL on M0 is answered with an HRP of kind x10 that echoes its nonce, or counted when
the serial or the side is not as R418 has it. An HRP of an
adapter that echoes that nonce gets an SGR: its parked session back with its store when it names it within 500 ms, else a
new one. A wrong echo changes nothing; a partner on a host port is counted; a malformed HRP is counted. The first LGR
makes the session ACTIVE, from its last JDA + 1. An LGR that names another session is counted and changes no session. How
session identifiers are numbered (log entry 11) and that a HAIL carries JSEAL.RSZ (70) are the model's choices. -/
def Obligations.SessionGrant : Prop :=
  ∀ (p : Nat) (s : State), let x := getPort s p
    (∀ at', portsRun s = true → portExists s p = true → x.ls = .up → x.idle = false → x.sstate ≤ 1 → x.hailAt = some at' →
      (p = 8 → mirrorTied s = false) → canSend (passTo s at') p 3 24 = true →
      ∃ t n, exec (.hail (.own p)) s = .next t ∧
        t.out = .hail p s.part.serial (decide (ownStream s = 1)) x.gen x.width n :: s.out ∧ (getPort t p).nonce = n ∧
        (getPort t p).sstate = 1 ∧ t.now = max s.now at' ∧ (getPort t p).hailAt = some (t.now + 1000000000) ∧
        onlyPort s t p ∧ keepsAll s t ∧ keepsPlane s t) ∧
    (∀ h : FarHail, p = 8 → alive s = true → flows s 8 = true → h.good = true →
      (partnerHail s h = true → canSend s 8 3 32 = true →
        ∃ t n, exec (.hail (.far 8 h)) s = .next t ∧ t.out = .hrp 8 s.part.serial 0x10 0 n h.nonce :: s.out ∧
          t.pair = { s.pair with far := some (h.side, h.rsz) } ∧ onlyPort s t 8 ∧ keepsCores s t ∧ keepsEngine s t ∧
          keepsPlane s t) ∧
      (partnerHail s h = false →
        ∃ t, exec (.hail (.far 8 h)) s = .next t ∧ counted s t 0x4000 0x0E ∧ t.out = s.out ∧ t.ports = s.ports ∧
          t.pair = { s.pair with far := none } ∧ t.sessions = s.sessions ∧ keepsCores s t ∧ keepsEngine s t)) ∧
    (∀ (peer : Word) (kind : Byte) (park : BitVec 32) (nonce echo : Word) (good : Bool),
      p < 8 → portsRun s = true → x.ls = .up → x.idle = false →
      let known := kind.toNat = 1 ∨ kind.toNat = 2 ∨ kind.toNat = 3 ∨ kind.toNat = 16
      (good = true → known → kind.toNat ≠ 16 → s.phase = .running → x.sstate = 1 → x.nonce = echo → canSend s p 3 16 = true →
        ∃ t id re y, exec (.hrp p peer kind park nonce echo good) s = .next t ∧ t.out = .sgr p re id nonce :: s.out ∧
          (getPort t p).session = id ∧ (getPort t p).sstate = 2 ∧ (getPort t p).hailAt = none ∧
          y ∈ t.sessions ∧ y.id = id ∧ y.st = 2 ∧ y.peer = peer ∧ y.port = p ∧ y.nonce = nonce ∧
          (∀ z, reassociable s peer park.toNat = some z → re = true ∧ id = z.id ∧ y.store = z.store ∧ y.jda0 = z.jda0 ∧
            t.nextSession = s.nextSession) ∧
          (reassociable s peer park.toNat = none → re = false ∧ id = s.nextSession ∧ t.nextSession = s.nextSession + 1) ∧
          (∀ j, j ≠ p → getPort t j = getPort s j) ∧ keepsAll s t ∧ keepsPlane s t) ∧
      (good = true → known → (x.sstate ≠ 1 ∨ x.nonce ≠ echo) → exec (.hrp p peer kind park nonce echo good) s = .next s) ∧
      (good = true → kind.toNat = 16 → x.sstate = 1 → x.nonce = echo →
        ∃ t, exec (.hrp p peer kind park nonce echo good) s = .next t ∧ counted s t 0x4000 0x0F ∧ t.ports = s.ports ∧
          t.sessions = s.sessions ∧ keepsAll s t) ∧
      (good = false ∨ ¬known →
        ∃ t, exec (.hrp p peer kind park nonce echo good) s = .next t ∧ counted s t 0x4001 (p + 1) ∧
          t.sessions = s.sessions ∧ keepsAll s t)) ∧
    (∀ (session seq : BitVec 32) (grant : BitVec 4) (good : Bool), p < 8 → alive s = true → portUp s p = true →
      let fits := good = true ∧ 1 ≤ grant.toNat ∧ grant.toNat ≤ 3 ∧ x.session = session.toNat ∧ 2 ≤ x.sstate
      (∀ y, (s.sessions.find? fun y => y.id = session.toNat) = some y → fits → adapterOf s y.peer = none →
        ∃ t v, exec (.lgr p session seq grant good) s = .next t ∧
          (t.sessions.find? fun y => y.id = session.toNat) = some v ∧ v.lease = seq.toNat ∧ v.grant = grant.toNat ∧
          v.grantAt = s.now ∧ v.peer = y.peer ∧ v.store = y.store ∧ v.jda0 = y.jda0 ∧ v.jda1 = y.jda1 ∧
          (y.st = 2 → v.st = 3 ∧ (getPort t p).sstate = 3 ∧ v.send0 = y.jda0 + 1 ∧ v.send1 = y.jda1 + 1) ∧
          (y.st ≠ 2 → v.st = y.st ∧ v.send0 = y.send0 ∧ v.send1 = y.send1 ∧ t.ports = s.ports) ∧
          keepsAll s t ∧ keepsPlane s t) ∧
      ((s.sessions.find? fun y => y.id = session.toNat) = none ∨ ¬fits →
        ∃ t, exec (.lgr p session seq grant good) s = .next t ∧ counted s t 0x4001 (p + 1) ∧ t.sessions = s.sessions ∧
          keepsAll s t))

-- the pair

/-- R421 to R423, R427, R440: mirror messages. An MRC whose chain holds is kept in the ring at its next place, applied and
acknowledged by a MAK; a record of the device's own stream counts as acknowledged (R437). One already held is only
acknowledged again; one that fails is mirror loss (code x17), which fences side 1. The entries of a state image replace
their tables' entries. A MAK acknowledges the records of its stream up to its SEQ; the acknowledged record of a move sets
OWNMAP (R439). A device whose pair is broken takes neither. A malformed MRC or MAK is counted and changes nothing. An MRC
wakes the device (`stir`, R501). Of the model's choice are the record's place and the tail after it (log entry 101), that
mirror loss leaves side 0 PAIRED with a broken pair (71), the offsets 8, 16 and 24 of the items (22) and that a state image
makes a JOINING or FENCED device the one that rejoins (108). -/
def Obligations.MirrorMessages : Prop :=
  (∀ (seq : Word) (stream : Byte) (floor : BitVec 32) (body : List Byte) (s0 : State),
    let s := stir s0 9
    let k := stream.toNat
    let run := fun (P : State → Prop) => ∃ t, exec (.mrc ⟨seq, stream⟩ floor body true) s0 = .next t ∧ P t
    m0Up s = true → bit s.pair.cfg 63 = true →
    (k < 2 → takesMirror s = true → (pst s = .paired → k ≠ ownStream s) →
      (∀ r, parseRec body = some r → r.stream = k → r.seq = seq.toNat → canSend s 8 0 16 = true →
        (heldSeq s k r.seq = true → run fun t => t.out = .mak k r.seq :: s.out ∧ keepsAll s t ∧ onlyPort s t 8) ∧
        (heldSeq s k r.seq = false → chainOk s r = true → run fun t =>
          t.out = .mak k r.seq :: s.out ∧
          t.jrn.ring = s.jrn.ring ++ [{ r with
            ringAt := s.now, floor := floor.toNat, place := s.jrn.tail
            acked := decide (k = ownStream s), ackAt := if k = ownStream s then s.now else 0, mirrored := true }] ∧
          t.jrn.tail = (s.jrn.tail + recPad r.body.length) % max 64 (ringSize s) ∧
          nextSeq t.jrn k = r.seq + 1 ∧ lastH t.jrn k = r.h ∧ t.jrn.path = s.jrn.path ∧
          (pst s = .resync → anchored s k = false → reclaimedOf t.jrn k = r.seq - 1) ∧
          (pst s = .paired → reclaimedOf t.jrn k = reclaimedOf s.jrn k) ∧
          (r.kind = 1 → ∀ i x, rowOf t k r.orig = some (i, x) →
            ⟨r.serial, true, r.status, r.seq, field r.h 0 8⟩ ∈ x.slots ∧ floor.toNat ≤ x.floor) ∧
          t.pair.ownmap = (if r.kind = 0x14 then BitVec.ofNat 64 (field r.body 8 8) else s.pair.ownmap) ∧
          (r.kind = 0x11 → t.adm.changes = s.adm.changes ++
            [⟨some (field r.body 8 8), none, BitVec.ofNat 256 (field r.body 24 32), [], field r.body 16 8⟩]) ∧
          keepsCores s t)) ∧
      ((∀ r, parseRec body = some r → r.stream = k → r.seq = seq.toNat → heldSeq s k r.seq = false ∧ chainOk s r = false) →
        run fun t => t.pair.broken = true ∧ t.baro.last = 0x17 ∧ nextSeq t.jrn k = nextSeq s.jrn k ∧
          t.pair.st = (if ownStream s = 1 then .fenced else s.pair.st) ∧ t.cores = s.cores ∧ t.mem = s.mem)) ∧
    (0x80 ≤ k → k ≤ 0x83 → s.pair.broken = false → pst s = .resync → canSend s 8 0 16 = true → body.length = imageLen k →
      run fun t =>
        t.out = .mak k seq.toNat :: s.out ∧ t.jrn = s.jrn ∧
        (k = 0x80 → tget DupRow.free t.adm.rows seq.toNat = rowFrom body) ∧
        (k = 0x81 → poolOf t seq.toNat = BitVec.ofNat 256 (field body 0 32)) ∧
        (k = 0x82 → ∀ i < 16, selWord (selEntry t seq.toNat) i = BitVec.ofNat 64 (field body (8 * i) 8)) ∧
        (k = 0x83 → t.pair.ownmap = BitVec.ofNat 64 (field body 0 8) ∧ t.pair.homemap = BitVec.ofNat 64 (field body 8 8)) ∧
        keepsCores s t) ∧
    (0x80 ≤ k → k ≤ 0x83 → pst s = .joining ∨ pst s = .fenced → s.pair.met = true ∨ s.pair.far.isSome = true →
      rszOk s = true → run fun t => t.pair.st = .resync ∧ t.pair.broken = false ∧ t.jrn.ring = [] ∧ t.jrn.path = [] ∧
        t.mem = s.mem) ∧
    (k < 2 → s.pair.broken = true → pst s ≠ .joining → exec (.mrc ⟨seq, stream⟩ floor body true) s0 = .next s)) ∧
  (∀ (seq : Word) (stream : Byte) (floor : BitVec 32) (body : List Byte) (good : Bool) (s : State),
    let k := stream.toNat
    m0Up s = true → good = false ∨ (2 ≤ k ∧ ¬(0x80 ≤ k ∧ k ≤ 0x83)) →
    ∃ t, exec (.mrc ⟨seq, stream⟩ floor body good) s = .next t ∧ counted s t 0x4001 9 ∧ keepsAll s t) ∧
  (∀ (seq : Word) (stream : Byte) (s : State), m0Up s = true →
    let hit := fun (r : Rec) => r.stream = stream.toNat && r.sent && !r.acked && decide (r.seq ≤ seq.toNat)
    (pairSends s = true → (stream.toNat < 2 ∨ 0x80 ≤ stream.toNat ∧ stream.toNat ≤ 0x83) →
      ∃ t, exec (.mak ⟨seq, stream⟩ true) s = .next t ∧
        t.jrn.ring = s.jrn.ring.map (fun r => if hit r then { r with acked := true, ackAt := s.now } else r) ∧
        t.jrn.path = s.jrn.path ∧ ((∀ r ∈ s.jrn.ring, hit r → r.kind ≠ 0x14) → t.pair = s.pair) ∧
        (∀ r, s.jrn.ring.filter hit = [r] → r.kind = 0x14 → pst s = .paired → stream.toNat = ownStream s →
          let w : Word := BitVec.ofNat 64 (field r.body 8 8)
          t.pair.ownmap = w ∧ t.pair.moves = s.pair.moves.filter fun m => !(m.recorded && giveParts s w m.mask = w)) ∧
        keepsCores s t ∧ t.adm = s.adm) ∧
    (pairSends s = false → (stream.toNat < 2 ∨ 0x80 ≤ stream.toNat ∧ stream.toNat ≤ 0x83) →
      exec (.mak ⟨seq, stream⟩ true) s = .next s) ∧
    (∃ t, exec (.mak ⟨seq, stream⟩ false) s = .next t ∧ counted s t 0x4001 9 ∧ keepsAll s t))

/-- R421, R426, R427, R438: heartbeats every 100 µs on M0 and on the pin, and what silence does. A path is silent after
300 µs. With the pin silent alone the pair goes on; with M0 silent alone, or a MAK 10 µs overdue, mirror loss is judged,
which fences side 1: it sends no reply any more (R431). With both silent a PAIRED device claims, and enters SOLO at once
if its grants make a quorum. An MHB of the partner keeps its path alive; it tells a JOINING or FENCED device that has met
it whether it joins or rejoins; READY ends a rejoin, and the survivor writes the pair event record. A malformed MHB
is counted. Of the model's choice are that record and when it is written (log entry 107) with its item (22), what an MHB
makes of a device that joins (108), side 0 after mirror loss and its code x17 (71), and the pin's edge 10 µs after the
last raw transition (116). -/
def Obligations.Heartbeats : Prop :=
  (∀ (serial : Word) (side : Bool) (pstate : BitVec 4) (ready : Bool) (rcl mrcl : Word) (s : State),
    m0Up s = true →
    (bit s.pair.cfg 63 = true → pstate.toNat < 7 →
      (serial = s.pair.pserial → b2n side ≠ ownStream s →
        ∃ t, exec (.mhb serial side pstate ready ⟨rcl, mrcl⟩ true) s = .next t ∧ t.pair.hbm = true ∧ t.pair.mhbAt = s.now ∧
          t.jrn.partnerRcl = max s.jrn.partnerRcl rcl.toNat ∧ t.jrn.partnerMrcl = max s.jrn.partnerMrcl mrcl.toNat ∧
          (pst s = .joining → s.pair.met = true → t.pair.st =
            (if pstate.toNat = 1 ∨ pstate.toNat = 2 then .paired
             else if pstate.toNat = 4 ∧ rszOk s = true then .resync else .joining)) ∧
          (pst s = .fenced → s.pair.met = true → t.pair.st =
            (if pstate.toNat = 4 ∧ rszOk s = true then .resync else .fenced)) ∧
          (¬((pst s = .joining ∨ pst s = .fenced) ∧ s.pair.met = true) → t.pair.st =
            (if (pst s = .solo ∧ s.pair.rejoin = true ∧ ready = true) ∨
              (pst s = .resync ∧ s.pair.ready = true ∧ pstate = 2) then .paired else s.pair.st)) ∧
          (pst s = .solo → s.pair.rejoin = true → ready = true → s.jrn.opened = true → s.boot.debugRec = [] →
            s.pair.soloOwed = false → s.pair.rejoinOwed = false → sysRoom s 16 = true →
            ∃ r, t.jrn.path = s.jrn.path ++ [r] ∧ r.kind = 0x14 ∧
              r.stream = ownStream s ∧ r.body = mkItem 0x8014 (wordBytes s.pair.ownmap)) ∧
          (pst s = .solo → s.pair.rejoin = true → ready = true → s.jrn.opened = false →
            t.jrn.path = s.jrn.path ∧ t.pair.rejoinOwed = true) ∧
          t.mem = s.mem ∧ ((t.pair.st = .resync → pst s = .resync) → keepsCores s t)) ∧
      (serial ≠ s.pair.pserial → exec (.mhb serial side pstate ready ⟨rcl, mrcl⟩ true) s = .next s) ∧
      (serial = s.pair.pserial → b2n side = ownStream s →
        ∃ t, exec (.mhb serial side pstate ready ⟨rcl, mrcl⟩ true) s = .next t ∧ counted s t 0x4000 0x0E ∧
          t.ports = s.ports ∧ keepsAll s t)) ∧
    (∀ good, good = false ∨ 7 ≤ pstate.toNat →
      ∃ t, exec (.mhb serial side pstate ready ⟨rcl, mrcl⟩ good) s = .next t ∧ counted s t 0x4001 9 ∧ keepsAll s t)) ∧
  (∀ s : State, m0Up s = true → beats s = true → canSend s 8 0 32 = true →
    ∃ t, exec .mhbSend s = .next t ∧ t.now = max s.now (s.pair.mhbSentAt + 100000000) ∧
      t.out = .mhb s.part.serial (decide (ownStream s = 1)) (pstCode (pst s)) s.pair.ready
        (drainMark s (ownStream s)) (reclaimedOf s.jrn (1 - ownStream s)) :: s.out ∧
      t.pair = { s.pair with mhbSentAt := t.now } ∧ onlyPort s t 8 ∧ keepsCores s t ∧ keepsEngine s t) ∧
  (∀ s : State, beats s = true →
    ∃ t, exec .pairHbOutToggle s = .next t ∧ t.now = max s.now (s.pair.toggleAt + 100000000) ∧
      t.out = .pairHbOut (!s.pair.hbOut) :: s.out ∧ t.pair = { s.pair with hbOut := !s.pair.hbOut, toggleAt := t.now } ∧
      keepsCores s t ∧ keepsEngine s t) ∧
  (∀ s : State, alive s = true → bit s.baro.chat 1 = false →
    ∃ t, exec .pairHbInEdge s = .next t ∧ t.pair = { s.pair with pinAt := t.now, hbp := true } ∧ t.out = s.out ∧
      t.baro.filt = s.baro.filt ^^^ 2 ∧ (∀ a l, s.baro.raw1 = a :: l → t.now = max s.now (a + 10000000)) ∧
      keepsCores s t ∧ keepsEngine s t) ∧
  (∀ s : State, alive s = true → bit s.pair.cfg 63 = true → pst s = .paired → s.pair.broken = false →
    let claims := fun t : State => t.pair.broken = true ∧
      t.pair.st = (if quorum { s with now := t.now } = true then .solo else .claim) ∧ keepsCores s t ∧
      ∀ q < 8, portActive s q = true → ∃ k, let d := BitVec.ofNat 64 (ownStream s * 2 ^ 56)
        .mnt q 6 k d ∈ t.out ∨ (6, d) ∈ (getPort t q).mnts
    let lost := fun t : State => t.pair.broken = true ∧ t.pair.st = (if ownStream s = 1 then .fenced else .paired) ∧
      t.cores = s.cores ∧ t.mem = s.mem ∧ (ownStream s ≠ 1 → t.ctxs = s.ctxs ∧ keepsEngine s t) ∧
      (ownStream s = 1 → t.adm.owed = [] ∧ (∀ e ∈ t.ctxs, e.2.session = 0) ∧
        ∀ r ∈ t.jrn.path ++ t.jrn.ring, r.stream = 1 → r.tx.isSome = true → r.replied = true)
    (s.pair.hbp = true → ∃ t, exec (.pathSilent true) s = .next t ∧ t.now = max s.now (s.pair.pinAt + 300000000) ∧
      t.pair.hbp = false ∧ (s.pair.hbm = false → claims t) ∧
      (s.pair.hbm = true → t.pair = { s.pair with hbp := false } ∧ keepsCores s t)) ∧
    (s.pair.hbm = true → ∃ t, exec (.pathSilent false) s = .next t ∧ t.now = max s.now (s.pair.mhbAt + 300000000) ∧
      t.pair.hbm = false ∧ (s.pair.hbp = false → claims t) ∧ (s.pair.hbp = true → lost t)) ∧
    (∀ r, leastRec s.jrn.ring (fun r => r.stream = ownStream s && r.sent && !r.acked) (·.sentAt) = some r →
      ∃ t, exec .makOverdue s = .next t ∧ t.now = max s.now (r.sentAt + 11340000) ∧ t.baro.last = 0x17 ∧ lost t))

/-- R420, R428, R430 to R432, R436, R438, R439, R541: the pair's states. A partner that answers on M0, its HAIL heard: a
JOINING or FENCED device has met it and waits for its next message; a survivor starts the rejoin once steps 1 to 3 of R432
are done, unless the ring sizes differ (R436); another serial is counted. The join timeout claims. A SOLO grant counts for
6 ms: quorum enters SOLO with every partition and, once the journal can take them (R84), the takeover and pair event
records; DENY answers that put it out of reach, or quorum lapsing in SOLO, fence.
A joining device that has applied everything is ready. A handover, which the journal must have room for (R84), takes
partitions out of admission; once no transaction names them its record is written. Of the model's choice are what a device
that has met its partner waits for (log entry 108), the items of x8014 (22), JSEAL.RSZ in the HAIL (70) and that the
records wait for room and open a stream not yet opened (100). -/
def Obligations.PairStates : Prop :=
  (∀ (peer : Word) (park : BitVec 32) (nonce : Word) (s : State), let x := getPort s 8
    let run := fun (P : State → Prop) => ∃ t, exec (.hrp 8 peer 16 park nonce x.nonce true) s = .next t ∧ P t ∧ keepsCores s t
    let refused := run fun t => counted s t 0x4000 0x0E ∧ t.pair.st = s.pair.st ∧ keepsEngine s t
    alive s = true → x.ls = .up → x.idle = false → x.sstate = 1 → mirrorTied s = false →
    (bit s.pair.cfg 63 = false ∨ peer ≠ s.pair.pserial → refused) ∧
    (bit s.pair.cfg 63 = true → peer = s.pair.pserial → s.pair.far ≠ none →
      (pst s = .joining ∨ pst s = .fenced → run fun t => t.pair = { s.pair with met := true } ∧ keepsEngine s t) ∧
      (pst s = .solo → soloDone s = false → exec (.hrp 8 peer 16 park nonce x.nonce true) s = .next s) ∧
      (pst s = .solo → soloDone s = true → rszOk s = true → run fun t => t.pair.st = .solo ∧ t.pair.rejoin = true ∧ t.adm = s.adm ∧
        ∀ r ∈ t.jrn.ring, rejoinRec s r = true → r.sent = true) ∧
      (pst s = .solo → soloDone s = true → rszOk s = false → refused))) ∧
  (∀ s : State, alive s = true → pst s = .joining →
    ∃ t, exec .joinTimeout s = .next t ∧ t.pair.st = (if quorum { s with now := t.now } = true then .solo else .claim) ∧
      t.now = max s.now (s.pair.joinAt + s.pair.joinMs * 1000000000) ∧
      keepsCores s t ∧ t.adm.reqs = s.adm.reqs ∧ t.adm.pools = s.adm.pools ∧ t.adm.rows = s.adm.rows) ∧
  (∀ (p k : Nat) (session seq : BitVec 32) (grant : BitVec 4) (s : State) (y : Session),
    let x := getPort s p
    let gs := (k, s.now + 6000000000) :: s.pair.grants.filter fun e => e.1 ≠ k
    let ds := k :: s.pair.denied.filter (· ≠ k)
    let own : Word := if ownStream s = 1 then BitVec.allOnes 64 else 0
    alive s = true → portUp s p = true → (s.sessions.find? fun y => y.id = session.toNat) = some y →
    x.session = session.toNat → x.sstate = 3 → adapterOf s y.peer = some k →
    (grant = 2 → ∃ t, exec (.lgr p session seq grant true) s = .next t ∧ t.pair.grants = gs ∧ k ∉ t.pair.denied ∧
      (pst s = .claim → quorum { s with pair := { s.pair with grants := gs } } = true →
        t.pair.st = .solo ∧ t.pair.ownmap = own ∧ t.pair.takeSeq = some (nextSeq s.jrn (1 - ownStream s)) ∧
        (s.jrn.opened = true → s.boot.debugRec = [] →
          (t.pair.soloOwed = true → t.jrn.path = s.jrn.path) ∧
          (t.pair.soloOwed = false → ∃ a b, t.jrn.path = s.jrn.path ++ [a, b] ∧ a.kind = 0x14 ∧
            a.stream = 1 - ownStream s ∧ b.kind = 0x14 ∧ b.stream = ownStream s ∧
            a.body = mkItem 0x8014 (wordBytes own) ∧ b.body = a.body) ∧
          (ringUsed s + reserved s + 2 * recPad 16 ≤ ringSize s → t.pair.soloOwed = false))) ∧
      (pst s ≠ .claim → t.pair.st = s.pair.st) ∧ t.cores = s.cores ∧ t.mem = s.mem ∧
      (pst s ≠ .claim ∨ t.pair.st ≠ .fenced → keepsCores s t)) ∧
    (grant = 3 → pst s = .claim → ∃ t, exec (.lgr p session seq grant true) s = .next t ∧ t.pair.denied = ds ∧
      (quorum s = false → t.pair.st =
        (if hopeless { s with pair := { s.pair with denied := ds } } = true then .fenced else .claim)) ∧
      t.cores = s.cores ∧ t.mem = s.mem ∧ (t.pair.st ≠ .fenced → keepsCores s t))) ∧
  (∀ (k : Nat) (s : State) (g : Nat × Nat), alive s = true → (s.pair.grants.find? fun g => g.1 = k) = some g →
    let left := s.pair.grants.filter fun e => e.1 ≠ k
    ∃ t, exec (.soloGrantExpiry k) s = .next t ∧ t.now = max s.now g.2 ∧ t.pair.grants = left ∧
      (let lapsed := pst s = .solo ∧ quorum { s with now := t.now, pair := { s.pair with grants := left } } = false
       (lapsed → t.pair.st = .fenced ∧ t.adm.owed = []) ∧ (¬lapsed → t.pair.st = s.pair.st ∧ keepsCores s t)) ∧
      t.cores = s.cores ∧ t.mem = s.mem) ∧
  (∀ s : State, alive s = true → pst s = .resync → ringTop s (1 - ownStream s) ≤ s.pair.mapply →
    ∃ t, exec .rejoinReady s = .next t ∧ t.pair = { s.pair with ready := true } ∧ keepsCores s t ∧ keepsEngine s t) ∧
  (∀ (v : Word) (s : State), alive s = true →
    ∃ t, exec (.mapplyWrite v) s = .next t ∧ t.pair = { s.pair with mapply := v.toNat } ∧ keepsCores s t ∧ keepsEngine s t) ∧
  (∀ (mask : Word) (s : State), alive s = true → mask ≠ 0 → pst s = .paired →
    (∀ k < 64, bit mask k = true → b2n (bit s.pair.ownmap k) = ownStream s) →
    (sysRoom s 16 = true →
      ∃ t, exec (.partitionHandover mask) s = .next t ∧
        t.pair = { s.pair with moves := s.pair.moves ++ [⟨s.pair.moveId + 1, mask, false⟩], moveId := s.pair.moveId + 1 } ∧
        (∀ k < 64, bit mask k = true → ownsPart t k = false) ∧ keepsCores s t ∧ keepsEngine s t) ∧
    (sysRoom s 16 = false → exec (.partitionHandover mask) s = .next s)) ∧
  (∀ (s : State) (m : Move), alive s = true → pst s = .paired → s.jrn.opened = true → nextMove s = some m →
    sysRoom s 16 = true →
    ∃ t r, exec .partitionMoveRecord s = .next t ∧ t.jrn.path = s.jrn.path ++ [r] ∧ r.kind = 0x14 ∧
      r.stream = ownStream s ∧ r.body = mkItem 0x8014 (wordBytes (movedMap s m)) ∧
      t.pair = { s.pair with moves := s.pair.moves.filter (fun k => k.id ≠ m.id) ++ [{ m with recorded := true }] } ∧
      keepsCores s t)

-- ledger time

/-- R402, R415, R458, R459, R461, R508, R511: ledger time. TSY records an exchange from the chosen source; TDQ answers it;
TDR gives the offset ((t2 - t1) - (t4 - t3)) / 2 to the time guard: the first sets ledger time, a later one slews it at
+200 or -200 ppm, one of more than 100 ms behind changes nothing; more than 100 ms either way raises an alert (the model's
code x13, log entry 34; the division truncates toward zero, log entry 13). Ledger time never decreases. A check that finds
more than 500 ppm makes the device silent. -/
def Obligations.TimeSync : Prop :=
  (∀ (p : Nat) (t1 seq : Word) (first : Bool) (s : State), alive s = true → portUp s p = true →
    let x := getPort s p
    let run := fun (P : State → Prop) => ∃ t, exec (.tsy p t1 seq first) s = .next t ∧ P t ∧ keepsCores s t ∧ keepsEngine s t
    let soon := ∃ y ∈ s.sessions, y.id = x.session ∧ ∃ a, y.tsyAt = some a ∧ s.now < a + 10000000000
    (first = true → portActive s p = true → chosenSource s p = true → ¬soon → run fun t =>
      t.time = { s.time with exch := s.time.exch ++ [⟨p, x.session, t1.toNat, localNs s, none, seq, s.now⟩] } ∧
      t.sessions = s.sessions.map (fun y => if y.id = x.session then { y with tsyAt := some s.now } else y) ∧
      t.ports = s.ports ∧ keepsPlane s t) ∧
    (first = true → portActive s p = true → chosenSource s p = false ∨ soon → exec (.tsy p t1 seq first) s = .next s) ∧
    (first = false ∨ portActive s p = false → run fun t => counted s t 0x4001 (p + 1) ∧ t.time = s.time)) ∧
  (∀ (p : Nat) (s : State) (e : TimeEx), alive s = true → canSend s p 3 8 = true →
    (s.time.exch.find? fun e => e.port = p && e.t3.isNone) = some e →
    ∃ t, exec (.tdq p) s = .next t ∧ t.out = .tdq p e.seq :: s.out ∧
      t.time = { s.time with exch := s.time.exch.map fun f => if f = e then { e with t3 := some (localNs s) } else f } ∧
      onlyPort s t p ∧ keepsCores s t ∧ keepsEngine s t ∧ keepsPlane s t) ∧
  (∀ (p : Nat) (t4 seq : Word) (s : State) (e : TimeEx) (t3 : Nat), alive s = true → portUp s p = true →
    portActive s p = true → (s.time.exch.find? fun e => e.port = p && e.seq = seq && e.t3.isSome) = some e → e.t3 = some t3 →
    let off := (((e.t2 : Int) - e.t1) - ((t4.toNat : Int) - t3)).tdiv 2
    ∃ t, exec (.tdr p t4 seq true) s = .next t ∧ t.time.last = off ∧ t.time.src = some p ∧
      t.time.exch = s.time.exch.erase e ∧ t.now = s.now ∧
      (s.time.running = false → s.time.crystal = true →
        t.time.running = true ∧ ledgerNow t = ((localNs s : Int) - off).toNat) ∧
      (s.time.running = false → s.time.crystal = false → t.time.running = false) ∧
      (s.time.running = true →
        ledgerNow t = ledgerNow s ∧
        (-100000000 ≤ off → off < 0 → t.time.ppm = 200 ∧ t.time.left = off) ∧
        (0 < off → t.time.ppm = -200 ∧ t.time.left = off) ∧ (off = 0 → t.time.ppm = 0 ∧ t.time.left = 0) ∧
        (off < -100000000 → t.time.ppm = s.time.ppm ∧ t.time.left = s.time.left ∧ t.time.since = s.time.since) ∧
        (off < -100000000 ∨ 100000000 < off → bit t.baro.src 0x13 = true)) ∧
      keepsCores s t) ∧
  (∀ s : State, s.time.running = true → s.time.left ≠ 0 → s.time.ppm ≠ 0 →
    ∃ t, exec .slewComplete s = .next t ∧ t.now = max s.now (s.time.since + s.time.left.natAbs * 5000000) ∧
      t.time.left = 0 ∧ t.time.ppm = 0 ∧ ledgerNow t = ledgerNow { s with now := t.now } ∧
      keepsCores s t ∧ keepsEngine s t ∧ keepsPlane s t) ∧
  (∀ (s : State) (d : Nat), ledgerNow s ≤ ledgerNow { s with now := s.now + d }) ∧
  (∀ (crystalNs : Nat) (s : State), alive s = true → s.time.running = true →
    let u := { s with now := max s.now (s.time.checkAt + 1000000000000) }
    let far := 500 * crystalNs < ((ledgerNow u - s.time.checked - s.time.stepped : Nat) - (crystalNs : Int)).natAbs * 1000000
    ∃ t, exec (.timeGuardCheck crystalNs) s = .next t ∧ t.now = u.now ∧ ledgerNow t = ledgerNow u ∧
      t.time.checked = ledgerNow u ∧ (far → t.phase = .silent ∧ t.baro.last = 0x13) ∧
      (¬far → t.phase = .running ∧ keepsPlane s t) ∧ keepsCores s t ∧ keepsEngine s t) ∧
  (∀ s : State, s.phase ≠ .silent → s.phase ≠ .held →
    (∃ t, exec (.crystalLock true) s = .next t ∧ t.time = { s.time with crystal := true } ∧ t.phase = s.phase ∧
      keepsCores s t ∧ keepsEngine s t ∧ keepsPlane s t) ∧
    (s.time.crystal = false → ∃ t, exec (.crystalLock false) s = .next t ∧ t.phase = .silent ∧ t.baro.last = 0x0F ∧
      t.now = max s.now (s.pwr.upAt + 1000000000000) ∧ keepsCores s t ∧ keepsEngine s t))

-- faults

/-- R442 to R445, R449, R453, R569: BAROMETER_FAULT. A fault of class C is logged and counted; one of class A is logged and
latches its alert; one of class S is logged, drives SAFE_OUT_N low and makes the device silent; a word lost in an own
record of the ring makes a PAIRED device silent and halts the drain of any other at that record; an uncorrectable word
freezes the context whose data it is with MACHINE_CHECK; class L stops the core, drains its cell, and ends every
transaction of its lane, no other, as ABORTED_FAULT x00F2; of a steward core it raises the alert (log entry 118). A fault
whose INFO is no source of its code changes nothing (log entry 118). -/
def Obligations.FaultReactions : Prop :=
  ∀ (code kind index : Byte) (detail : Word) (w : FaultAt) (info : Byte) (s : State), s.phase ≠ .held → s.phase ≠ .silent →
    let n := code.toNat
    let run := fun (P : State → Prop) => ∃ t, exec (.barometerFault code kind index detail w info) s = .next t ∧ P t ∧ t.mem = s.mem
    let logged := fun (t : State) (cls : Nat) => ∃ e, t.baro.log.find? (fun l => l.1 = s.baro.logNext) = some (s.baro.logNext, e) ∧ e.code = n ∧ e.cls = cls ∧
      e.detail = detail ∧ e.boots = s.baro.boots
    (infoOk n w info.toNat = false → exec (.barometerFault code kind index detail w info) s = .next s) ∧
    (n = 6 → run fun t => logged t 1 ∧ counted s t 0x4000 0x10 ∧ keepsCores s t ∧ keepsEngine s t ∧ keepsDevice s t) ∧
    (n = 0x18 → run fun t => logged t 1 ∧ counted s t 0x4003 (index.toNat + 1) ∧ keepsAll s t) ∧
    (n = 0x19 ∨ n = 0x15 ∧ kind.toNat ≠ 6 → run fun t =>
      logged t 4 ∧ bit t.baro.src n = true ∧ keepsCores s t ∧ keepsEngine s t ∧ keepsDevice s t) ∧
    (n ∈ [0x0A, 0x0C, 0x0D, 0x0E, 0x0F, 0x10, 0x11, 0x13, 0x14, 0x16] → run fun t =>
      logged t 5 ∧ t.phase = .silent ∧ t.baro.safeOut = false ∧ keepsCores s t ∧ keepsEngine s t) ∧
    (n = 8 → pst s = .paired → run fun t => t.phase = .silent ∧ keepsCores s t ∧ keepsEngine s t) ∧
    (n = 8 → pst s ≠ .paired → run fun t => bit t.baro.src 8 = true ∧ t.phase = s.phase ∧ keepsCores s t ∧
      (∀ r, ownRecAt s detail.toNat = some r → t.jrn.halted = some r.seq) ∧
      (ownRecAt s detail.toNat = none → keepsEngine s t)) ∧
    (n = 7 → w = .nothing → run fun t => logged t 2 ∧ keepsCores s t ∧ keepsEngine s t ∧ keepsDevice s t) ∧
    (∀ m, n = 7 → w = .record m → info = 0x27 → inLedger (getCtx s m) = true →
      (getCore s (getCtx s m).lane).running ≠ some m →
      run fun t => ∃ r, (getCtx t m).st = .frozen ∧ (getCtx t m).freason = 0x1E ∧ t.jrn.path = s.jrn.path ++ [r] ∧
        r.status = 2 ∧ r.reason = 0x1E ∧ r.orig = (getCtx s m).orig ∧ r.serial = (getCtx s m).serial ∧
        ∀ c, (getCore t c).running = (getCore s c).running) ∧
    (∀ lane, laneOf s w kind.toNat index.toNat = some lane → n = 1 ∨ n = 4 →
      let hit := s.ctxs.filter fun e => inLedger e.2 && e.2.lane = lane
      (lane < 256 → run fun t => ∃ rs,
        (getCore t lane).dead = true ∧ (getCore t lane).running = none ∧ (getCore t lane).sb = [] ∧
        (getCell t (lane / 4)).svc = (if (getCell s (lane / 4)).svc = .lost then .lost else .drained) ∧
        bit t.baro.src n = true ∧ t.jrn.path = s.jrn.path ++ rs ∧
        rs.map (·.orig) = hit.map (fun e => (getCtx s e.1).orig) ∧ (∀ r ∈ rs, r.status = 2 ∧ r.reason = 0xF2) ∧
        (∀ e ∈ hit, (getCtx t e.1).st = .ending) ∧ (∀ m, (∀ e ∈ hit, e.1 ≠ m) → getCtx t m = getCtx s m)) ∧
      (256 ≤ lane → run fun t => logged t 3 ∧ bit t.baro.src n = true ∧ keepsAll s t))

/-- R443, R447, R448, R450, R455, R456: the watchdog, alerts, scrubs, self-test and safety inputs. The watchdog restarts at
a kick of x5A3C; any other value, or the end of its period, makes the device silent. A drained cell that passes its first
self-test serves again; else its logical cell goes to a spare, and the physical one counts as failed, or is lost. Patrol
scrub writes POISON x4 over an uncorrectable word, which in an own record of the ring is a lost record. More than 64
transitions of an input within 1 ms latch its chatter. REFCLK lost in Frost is missed at the wake if it is still absent
(R567). That the physical cell of a spared one counts as failed (log entry 117), and which records are the own and where
they lie (35, 101), are the model's choices. So is the lowest-numbered spare (log entry 135). -/
def Obligations.SafetyEvents : Prop :=
  let dies := fun (c : Instr) (s : State) (code : Nat) => ∃ t, exec c s = .next t ∧ t.phase = .silent ∧
    t.baro.safeOut = false ∧ t.baro.last = code ∧ t.mem = s.mem ∧ t.ctxs = s.ctxs ∧ t.cores = s.cores ∧ keepsEngine s t
  (∀ (v : BitVec 16) (s : State), alive s = true →
    (v = 0x5A3C → ∃ t, exec (.watchdogKick v) s = .next t ∧ t.baro = { s.baro with wdAt := some s.now } ∧ keepsAll s t) ∧
    (v ≠ 0x5A3C → dies (.watchdogKick v) s 0x0E)) ∧
  (∀ (s : State) (a : Nat), alive s = true → s.pwr.cur = 0 → s.baro.wdAt = some a → dies .watchdogExpiry s 0x0E) ∧
  (∀ (mask : BitVec 32) (s : State), alive s = true →
    ∃ t, exec (.balrtClear mask) s = .next t ∧ t.baro.src = s.baro.src &&& ~~~ mask ∧
      (s.baro.src ≠ 0 → t.baro.src = 0 → .alert true ∈ t.out) ∧ keepsAll s t) ∧
  (∀ (bad : Option (Byte × Word)) (s : State), s.phase ≠ .held → s.phase ≠ .silent →
    (bad = none → exec (.tableScrub bad) s = .next s) ∧
    (∀ a, bad = some (0x0A, a) → dies (.tableScrub bad) s 0x0A) ∧
    (∀ a, bad = some (0x0B, a) → ∃ t, exec (.tableScrub bad) s = .next t ∧ bit t.baro.src 0x0B = true ∧ keepsAll s t)) ∧
  (∀ (addr : Addr) (err : DramErr) (s : State), let a := addr.toNat / 8 * 8
    s.phase ≠ .held → s.phase ≠ .silent → a < dramBytes s.part →
    (err = .clean → exec (.patrolScrub addr err) s = .next s) ∧
    (err = .single → ∃ t, exec (.patrolScrub addr err) s = .next t ∧ t.baro.last = 6 ∧ counted s t 0x4000 0x10 ∧ keepsAll s t) ∧
    (err = .double → ∃ t, exec (.patrolScrub addr err) s = .next t ∧
      rdWord t.mem a = ⟨0xF4, BitVec.ofNat 64 a⟩ ∧ (∀ b, b < a ∨ a + 8 ≤ b → rdByte t.mem b = rdByte s.mem b) ∧
      t.cores = s.cores ∧ t.ctxs = s.ctxs ∧
      (ownRecAt s a = none → t.baro.last = 7 ∧ keepsEngine s t ∧ keepsDevice s t) ∧
      (∀ r, ownRecAt s a = some r → t.baro.last = 8 ∧
        (pst s = .paired → t.phase = .silent) ∧ (pst s ≠ .paired → t.jrn.halted = some r.seq ∧ t.phase = s.phase)))) ∧
  (∀ (cell : Nat) (pass : Bool) (s : State), let x := getCell s cell
    alive s = true → x.svc = .drained → cell < ratedCells s.part.variant →
    (s.ctxs.any fun e => inLedger e.2 && e.2.lane / 4 = cell) = false →
    (testable s cell = true → pass = true → ∃ t, exec (.cellSelfTest cell pass) s = .next t ∧ t.now = s.now + 2000000000 ∧
      (getCell t cell).svc = .ok ∧ (∀ i < 4, (getCore t (4 * cell + i)).dead = false) ∧
      (∀ m, m ≠ cell → getCell t m = getCell s m) ∧ t.mem = s.mem ∧ t.ctxs = s.ctxs ∧ keepsEngine s t) ∧
    (testable s cell = false ∨ pass = false → ∃ t, exec (.cellSelfTest cell pass) s = .next t ∧
      (∀ q, spareCell s = some q → (getCell t cell).phys = q ∧ (getCell t cell).svc = .remap ∧ (getCell t cell).rdy = false ∧
        x.phys ∈ t.baro.failed ∧
        (∀ i < 4, (getCore t (4 * cell + i)).banks = [] ∧ (getCore t (4 * cell + i)).dead = false) ∧
        ∀ b, winBase cell ≤ b → b < winBase cell + 0x80000 → rdByte t.mem b = 0) ∧
      (spareCell s = none → (getCell t cell).svc = .lost ∧ t.mem = s.mem) ∧
      (∀ m, m ≠ cell → getCell t m = getCell s m) ∧ keepsEngine s t ∧
      ((∀ i < 4, (getCore s (4 * cell + i)).far = [] ∧ (getCore s (4 * cell + i)).sb = []) → t.ctxs = s.ctxs))) ∧
  (∀ s : State, s.phase ≠ .held → s.phase ≠ .silent → dies .forceSafeN s 0x16 ∧ dies (.clockLoss .trnclk) s 0x10 ∧
    (∀ back, s.pwr.cur ≠ 4 → dies (.clockLoss (.refclk back)) s 0x10) ∧
    (∀ back, s.pwr.cur = 4 → exec (.clockLoss (.refclk back)) s = .next { s with pwr := { s.pwr with
      refLost := true, refBackAt := back.map fun d => s.now + d } }) ∧
    (∀ ppm, 1000 < ppm → dies (.coreClockDeviation ppm) s 0x0F) ∧
    (∀ ppm, ppm ≤ 1000 → exec (.coreClockDeviation ppm) s = .next s) ∧
    (∀ (cell : Nat) (deg : Int), (1350 < deg → dies (.overTemperature cell deg) s 0x12) ∧
      (deg ≤ 1350 → ∃ t, exec (.overTemperature cell deg) s = .next t ∧ (getCell t cell).temp = deg ∧ t.phase = s.phase ∧
        (1250 < deg → bit t.baro.src 0x12 = true) ∧ (deg ≤ 1250 → t.baro = s.baro) ∧ t.mem = s.mem ∧ t.ctxs = s.ctxs))) ∧
  (∀ (pin : Fin 3) (s : State), let ts := (rawTimes s.baro pin.val).filter fun t => s.now < t + 1000000000
    s.phase ≠ .held →
    (ts.length < 64 → ∃ t, exec (.safetyInputRawTransition pin) s = .next t ∧ rawTimes t.baro pin.val = s.now :: ts ∧
      t.baro.chat = s.baro.chat ∧ keepsAll s t) ∧
    (64 ≤ ts.length → ∃ t, exec (.safetyInputRawTransition pin) s = .next t ∧ bit t.baro.chat (2 - pin.val) = true ∧
      (pin = 0 → bit s.baro.chat 2 = false → t.phase = .silent) ∧ t.mem = s.mem ∧ t.cores = s.cores ∧
      (pst s ≠ .resync → t.ctxs = s.ctxs)))

-- protection

/-- R13, R98, R357, R359 to R361, R366, R367, R371: the protection tables and their registers. A key table store writes one or
eight entries; a fill writes its run, and the window is shut while it runs. A shadow region entry that meets the six
conditions is written, and takes effect when the shadow is committed at the next mesh frame; while that is pending the
shadow is shut. JSEAL and FSEAL seal their ranges, which overlap no other sealed range and no region; a later JSEAL moves
the ring: the device is not ready and every old range stays sealed until the unreclaimed records lie from the start of the
new one on, in their order. DCFG and FSEAL lock at their first write. What is refused changes its counters alone. That a
register command wakes the device as the mailbox does (`mailed`, log entry 131), that a store to a control-space address
without a register, or to part of one, is refused and counted (39), and where the mesh frames begin (134) are the model's
choices. -/
def Obligations.ProtectionTables : Prop :=
  let refused := fun (c : Instr) (s : State) => ∃ t, exec c s = .next t ∧ counted s t 0x4000 1 ∧ t.prot = s.prot ∧
    keepsCores s t ∧ keepsEngine s t ∧ keepsDevice s t ∧ t.ports = (mailed s).ports ∧ t.pwr = (mailed s).pwr
  let wrote := fun (c : Instr) (s : State) (P : Prot → Prop) => ∃ t, exec c s = .next t ∧ P t.prot ∧ keepsCores s t ∧
    keepsEngine s t ∧ t.pair = s.pair ∧ t.time = s.time ∧ t.ports = (mailed s).ports ∧ keepsPlane (mailed s) t
  let keyGood := fun b : Byte => b &&& 7 = 0
  let key := fun (p : Prot) (b : Nat) => tget 0 p.keys b
  let apart := fun (r q : Nat × Nat) => ¬∃ x, r.1 ≤ x ∧ x < r.1 + r.2 ∧ q.1 ≤ x ∧ x < q.1 + q.2
  (∀ (b : Nat) (w : TWord) (s : State), alive s = true →
    let one := w.pay.setWidth 8
    (s.prot.filling = none → b < 4194304 → keyGood one → wrote (.keyTableWrite b false w) s fun p =>
      key p b = one ∧ (∀ j, j ≠ b → key p j = key s.prot j) ∧ { p with keys := s.prot.keys } = s.prot) ∧
    (s.prot.filling = none → b % 8 = 0 → b + 8 ≤ 4194304 → isInt w = true → (∀ x ∈ wordBytes w.pay, keyGood x) →
      wrote (.keyTableWrite b true w) s fun p =>
        (∀ i < 8, key p (b + i) = (wordBytes w.pay).getD i 0) ∧ (∀ j, j < b ∨ b + 8 ≤ j → key p j = key s.prot j) ∧
        { p with keys := s.prot.keys } = s.prot) ∧
    (s.prot.filling ≠ none ∨ 4194304 ≤ b ∨ ¬keyGood one → refused (.keyTableWrite b false w) s) ∧
    (s.prot.filling ≠ none ∨ b % 8 ≠ 0 ∨ isInt w = false ∨ (∃ x ∈ wordBytes w.pay, ¬keyGood x) →
      refused (.keyTableWrite b true w) s)) ∧
  (∀ (v : Word) (s : State), alive s = true → bit v 63 = true →
    let ok := fld v 62 52 = 0 ∧ fld v 51 30 + fld v 29 8 ≤ 4194303 ∧ fld v 2 0 = 0 ∧ s.prot.filling = none
    (ok → wrote (.kfill v) s fun p => p = { s.prot with kfill := v, filling := some ((mailed s).now, v) }) ∧
    (¬ok → refused (.kfill v) s)) ∧
  (∀ (v : Word) (s : State), alive s = true → bit v 63 = false →
    (fld v 62 52 = 0 → wrote (.kfill v) s fun p => p = { s.prot with kfill := v }) ∧
    (fld v 62 52 ≠ 0 → refused (.kfill v) s)) ∧
  (∀ (s : State) (a : Nat) (v : Word), alive s = true → s.prot.filling = some (a, v) →
    ∃ t, exec .kfillComplete s = .next t ∧ t.prot.filling = none ∧ t.now = max s.now (a + (1 + fld v 29 8 / 64) * 500) ∧
      (∀ b, key t.prot b = if fld v 51 30 ≤ b ∧ b ≤ fld v 51 30 + fld v 29 8 then v.setWidth 8 else key s.prot b) ∧
      keepsCores s t ∧ keepsEngine s t ∧ keepsPlane s t) ∧
  (∀ (n : Nat) (regb : Bool) (w : TWord) (s : State), alive s = true →
    let v := w.pay
    let ra := if regb then tget 0 s.prot.shA n else v
    let rb := if regb then v else tget 0 s.prot.shB n
    let lo := fun x : Word => fld x 39 8 * 256
    let shape := isInt w = true ∧ (regb = true → fld v 63 56 = 0 ∧ fld v 7 0 = 0) ∧
      (regb = false → fld v 62 61 < 2 ∧ (fld v 62 61 = 0 → fld v 60 55 = 0) ∧ fld v 54 50 = 0 ∧ fld v 43 40 = 0 ∧ fld v 7 0 = 0)
    let c14 := lo ra < lo rb ∧ (lo rb ≤ dramBytes s.part ∨ 0xFE00000000 ≤ lo ra ∧ lo rb ≤ 0xFE00080000) ∧
      (lo rb ≤ dramBytes s.part → fld ra 49 44 = 0) ∧ (fld ra 62 61 ≠ 0 → fld ra 60 55 < ratedCells s.part.variant)
    let c5 := ∀ e ∈ s.prot.shA, e.1 ≠ n → bit e.2 63 = true →
      (fld e.2 62 61 = 0 ∨ fld ra 62 61 = 0 ∨ fld e.2 60 55 = fld ra 60 55) →
      ¬∃ x, lo ra ≤ x ∧ x < lo rb ∧ lo e.2 ≤ x ∧ x < lo (tget 0 s.prot.shB e.1)
    let c6 := ∀ r ∈ dramSeals s.prot, ¬∃ x, lo ra ≤ x ∧ x < lo rb ∧ r.1 ≤ x ∧ x < r.1 + r.2
    (shape → s.prot.pend = false → (bit ra 63 = true → c14 ∧ c5 ∧ c6) →
      wrote (.regionShadowWrite n regb w) s fun p =>
        (tget 0 p.shA n = ra ∧ tget 0 p.shB n = rb) ∧ (∀ j, j ≠ n → tget 0 p.shA j = tget 0 s.prot.shA j ∧
          tget 0 p.shB j = tget 0 s.prot.shB j) ∧ p.actA = s.prot.actA ∧ p.actB = s.prot.actB ∧ p.epoch = s.prot.epoch) ∧
    (¬shape ∨ s.prot.pend = true → refused (.regionShadowWrite n regb w) s) ∧
    (shape → s.prot.pend = false → bit ra 63 = true → ¬(c14 ∧ c5 ∧ c6) →
      ∃ t, exec (.regionShadowWrite n regb w) s = .next t ∧ counted s t 0x4000 1 ∧ counted s t 0x4000 2 ∧ t.prot = s.prot ∧
        keepsAll s t)) ∧
  (∀ (v : Word) (s : State), alive s = true → bit v 0 = true → fld v 31 2 = 0 → s.prot.pend = false →
    wrote (.repochCommit v) s fun p => p = { s.prot with pend := true, pendAt := ((mailed s).now / 256000 + 1) * 256000 }) ∧
  (∀ (v : Word) (s : State), alive s = true →
    (fld v 31 2 ≠ 0 → refused (.repochCommit v) s) ∧
    (fld v 31 2 = 0 → bit v 0 = false ∨ s.prot.pend = true → exec (.repochCommit v) s = .next (mailed s))) ∧
  (∀ s : State, alive s = true → s.prot.pend = true →
    ∃ t, exec .epochBoundary s = .next t ∧ t.now = max s.now s.prot.pendAt ∧ t.prot.actA = s.prot.shA ∧
      t.prot.actB = s.prot.shB ∧ t.prot.epoch = s.prot.epoch + 1 ∧ t.prot.pend = false ∧ t.prot.keys = s.prot.keys ∧
      keepsCores s t ∧ keepsEngine s t ∧ keepsPlane s t) ∧
  (∀ (v : Word) (s : State), alive s = true →
    let r := (fld v 39 29 * 0x20000000, fld v 48 40 * 0x20000000)
    let ok := fld v 63 49 = 0 ∧ fld v 28 0 = 0 ∧ 1 ≤ fld v 48 40 ∧ fld v 48 40 ≤ 32 ∧ r.1 + r.2 ≤ dramBytes s.part ∧
      (s.prot.fsealOn = true → apart r (fld s.prot.fseal 39 20 * 0x100000, 0x1400000)) ∧ regionsMeet s r = false ∧
      noneAccepted s = true ∧ (s.prot.jsealOn = true → ringUsed s + 0x100000 ≤ r.2)
    (ok → s.prot.jsealOn = false → ∃ t, exec (.jsealWrite v) s = .next t ∧
      t.prot = { s.prot with jseal := v, jsealOn := true } ∧ keepsCores s t) ∧
    (ok → s.prot.jsealOn = true → ∃ t, exec (.jsealWrite v) s = .next t ∧ t.prot.jseal = v ∧ deviceReady t = false ∧
      (∃ old, t.prot.ringMove = some (old, (mailed s).now + cdiv (ringUsed s) 0x4000000 * 1000000000)) ∧
      (∀ a, sealedAt s.prot a = true ∨ (r.1 ≤ a ∧ a < r.1 + r.2) → sealedAt t.prot a = true) ∧
      keepsCores s t ∧ keepsEngine s t) ∧
    (¬ok → refused (.jsealWrite v) s)) ∧
  (∀ (s : State) (old : List Word) (at' : Nat), alive s = true → s.prot.ringMove = some (old, at') →
    let g := jsealRange s.prot.jseal
    let live := fun (t : State) => (t.jrn.ring.filter (unreclaimed s)).map fun r => { r with place := 0 }
    ∃ t, exec .ringMoveComplete s = .next t ∧ t.prot = { s.prot with ringMove := none } ∧ t.now = max s.now at' ∧
      live t = live s ∧ nextSeq t.jrn (1 - ownStream s) = nextSeq s.jrn (1 - ownStream s) ∧
      t.cores = s.cores ∧ t.ctxs = s.ctxs ∧ t.cells = s.cells ∧
      (1 ≤ fld s.prot.jseal 48 40 → (∀ r ∈ s.jrn.ring, (recBytes r).length ≤ g.2) →
        (∀ a, inRange g a = false → rdByte t.mem a = rdByte s.mem a) ∧
        (∀ r, s.jrn.ring.filter (unreclaimed s) = [r] →
          ∀ i < (recBytes r).length, rdByte t.mem (g.1 + i) = (recBytes r).getD i 0))) ∧
  (∀ (v : Word) (s : State), alive s = true →
    let r := (fld v 39 20 * 0x100000, 0x1400000)
    let ok := fld v 63 40 = 0 ∧ fld v 19 0 = 0 ∧ r.1 + r.2 ≤ dramBytes s.part ∧ regionsMeet s r = false ∧
      (∀ q ∈ dramSeals s.prot, apart r q) ∧ s.prot.fsealOn = false
    (ok → wrote (.fsealWrite v) s fun p => p = { s.prot with fseal := v, fsealOn := true }) ∧
    (¬ok → refused (.fsealWrite v) s) ∧
    (fld v 63 1 = 0 → s.prot.dcfgLocked = false →
      wrote (.dcfgWrite v) s fun p => p = { s.prot with dtrap := bit v 0, dcfgLocked := true }) ∧
    (fld v 63 1 ≠ 0 ∨ s.prot.dcfgLocked = true → refused (.dcfgWrite v) s))

/-- R11, R13, R334, R416, R418, R443, R498, R503: REGISTER_WRITE. An address without a register, a reserved bit or
encoding, a locked field, or a state that forbids the write refuses it: a refused write is counted and nothing else changes.
Otherwise the register takes the value, and its side effects follow: a port that is disabled goes DOWN, one that is enabled
waits in DETECT. That an address without a register, or part of one, is refused and counted is log entry 39, a choice of
the model; that the command wakes the device as the mailbox does (`mailed`) is log entry 131. -/
def Obligations.RegisterWrites : Prop :=
  ∀ (a : Addr) (v : Word) (s : State), alive s = true →
    let u := mailed s
    let refused := ∃ t, exec (.registerWrite a v) s = .next t ∧ counted s t 0x4000 1 ∧ t.ports = u.ports ∧ t.pwr = u.pwr ∧
      t.baro = u.baro ∧ keepsAll s t
    let run := fun (P : State → Prop) => ∃ t, exec (.registerWrite a v) s = .next t ∧ P t ∧ t.mgmt = s.mgmt
    (a.toNat % 8 ≠ 0 ∨ regAt a.toNat = none → refused) ∧
    (a = 0xFF05000018 → (fld v 63 11 = 0 → run fun t => t.baro = { u.baro with logSel := fld v 10 0 } ∧ t.ports = u.ports ∧ keepsAll s t) ∧
      (fld v 63 11 ≠ 0 → refused)) ∧
    (a = 0xFF06000010 → fld v 63 32 = 0 → run fun t => t.pwr = { u.pwr with ticks := fld v 31 0 } ∧ t.ports = u.ports ∧ keepsAll s t) ∧
    (a = 0xFF06000018 → fld v 62 40 = 0 → fld v 5 0 = 0 → run fun t =>
      t.pwr = { u.pwr with frV := bit v 63, frAddr := fld v 39 0 } ∧ t.ports = u.ports ∧ keepsAll s t) ∧
    (a = 0xFF06000008 →
      let ok := fld v 15 0 = 0 ∧ fld v 63 56 + fld v 55 48 ≤ ratedCells s.part.variant ∧ fld v 47 32 ≠ 0 ∧
        fld v 31 16 ≠ 0 ∧ fld v 47 32 ≤ fld v 31 16
      (ok → run fun t => t.pwr = { u.pwr with wb := fld v 63 56, wd := fld v 55 48, tdz := fld v 47 32, tms := fld v 31 16 } ∧
        t.ports = u.ports ∧ keepsAll s t) ∧ (¬ok → refused)) ∧
    (∀ n < ratedCells s.part.variant, a = BitVec.ofNat 40 (0xFF07000100 + 16 * n) → fld v 63 40 = 0 → cellHolds s n = false →
      run fun t => getCell t n = { getCell s n with ccfg0 := v } ∧ (∀ m, m ≠ n → getCell t m = getCell s m) ∧
        t.cores = s.cores ∧ t.ctxs = s.ctxs ∧ t.mem = s.mem ∧ keepsEngine s t ∧ keepsDevice s t) ∧
    (∀ k < 16, a = BitVec.ofNat 40 (0xFF04000100 + 8 * k) → (s.pair.locked = false → run fun t =>
      tget 0 t.pair.adp k = v ∧ (∀ j, j ≠ k → tget 0 t.pair.adp j = tget 0 s.pair.adp j) ∧ keepsCores s t ∧ keepsEngine s t) ∧
      (s.pair.locked = true → refused)) ∧
    (∀ p < 8, a = BitVec.ofNat 40 (0xFF03000000 + 32 * p) → portExists s p = true →
      let x := getPort s p
      let ok := fld v 47 40 = 0 ∧ fld v 37 36 = 0 ∧ fld v 28 0 = 0 ∧ fld v 35 33 ≠ 0 ∧ fld v 32 30 ≠ 0 ∧ fld v 63 48 ≠ 0
      (ok → ∃ t, exec (.registerWrite a v) s = .next t ∧ (getPort t p).pcfg = v ∧
        (bit x.pcfg 29 = true → bit v 29 = false → (getPort t p).ls = .disabled ∧ (getPort t p).session = 0) ∧
        (bit x.pcfg 29 = false → bit v 29 = true → (getPort t p).ls = .detect) ∧
        (bit x.pcfg 29 = bit v 29 → (getPort t p).ls = x.ls) ∧ keepsCores s t ∧ keepsEngine s t) ∧
      (¬ok → refused))

-- boot, the key vault and debug

/-- R470 to R480, R515: boot over VC3. A BOF of a greeted peer is refused in Retired (xAB) and without DRAM (xAD), held
behind the offer being served (x01), or served, with at most 8 chunk requests out. A BDT that disagrees with its BRQ is
counted; a BRQ unanswered for 100 ms ends the offer (xAC). No envelope passes unless its signer is a usable slot's (a
customer's: the steward image's CKHASH), its payload hash holds and both signatures verify; a failure refuses the set. When
the last image has passed and the fuses are blown, the payload lies at LOAD, the log has entries 2 to 4, the serving port
gets BST x00, the held ones x02, each once its port holds the credit (R395), and steward core 0 runs at LOAD. A bit that
reads unblown is blown again once; then its operation is refused (R471). A malformed BOF or BDT is counted in service too
(R402). Of the model's choice is that a set shorter than its header is refused at the BOF and the header is checked on
chunk 0 (log entry 78). -/
def Obligations.BootSequence : Prop :=
  (∀ (p : Nat) (offer : BitVec 32) (len : Nat) (good : Bool) (s : State), romPort s p = true →
    let run := fun (P : State → Prop) => ∃ t, exec (.bof p offer len good) s = .next t ∧ P t ∧ t.phase = s.phase ∧ keepsCores s t
    let bst := fun (st : Nat) (t : State) => t.out = .bst p offer.toNat st 0 0 :: s.out
    (good = false ∨ offer = 0 → run fun t => counted s t 0x4001 (p + 1) ∧ t.boot = s.boot) ∧
    (good = true → offer ≠ 0 → (getPort s p).bootPeer = true → canSend s p 3 16 = true →
      (s.boot.life = 4 → run fun t => bst 0xAB t ∧ t.boot = s.boot) ∧
      (s.boot.life ≠ 4 → s.boot.dramOk = false → run fun t => bst 0xAD t ∧ t.boot = s.boot) ∧
      (s.boot.life ≠ 4 → s.boot.dramOk = true → s.boot.serving ≠ none → run fun t => bst 1 t ∧
        t.boot = { s.boot with held := s.boot.held ++ [⟨p, offer.toNat, len, [], [], 0, 0, false⟩] }) ∧
      (s.boot.life ≠ 4 → s.boot.dramOk = true → s.boot.serving = none → s.boot.held = [] → len < 64 → run fun t =>
        bst 0xA1 t ∧ t.boot.serving = none) ∧
      (s.boot.life ≠ 4 → s.boot.dramOk = true → s.boot.serving = none → 64 ≤ len → run fun t =>
        ∃ o, t.boot.serving = some o ∧ o.port = p ∧ o.id = offer.toNat ∧ o.len = len ∧ o.chunks = [] ∧ o.asked.length ≤ 8 ∧
          ∀ a ∈ o.asked, .brq p o.id a.1 (min 4096 (len - 4096 * a.1)) ∈ t.out))) ∧
  (∀ (p : Nat) (offer : BitVec 32) (chunk len : Nat) (data : List Byte) (s : State) (o : Offer), romPort s p = true →
    s.boot.serving = some o →
    let fits := o.port = p ∧ o.id = offer.toNat ∧ (∃ a ∈ o.asked, a.1 = chunk) ∧ len = min 4096 (o.len - 4096 * chunk) ∧ data.length = len
    let run := fun (P : State → Prop) => ∃ t, exec (.bdt p ⟨offer, chunk⟩ len data true) s = .next t ∧ P t ∧ t.phase = s.phase ∧ keepsCores s t
    (fits → chunk ≠ 0 ∨ o.hdrOk = true → run fun t => ∃ v, t.boot.serving = some v ∧ tget [] v.chunks chunk = data ∧
      v.id = o.id ∧ v.port = o.port ∧ v.checked = o.checked ∧ (∀ k, k ≠ chunk → tget [] v.chunks k = tget [] o.chunks k)) ∧
    (fits → chunk = 0 → o.hdrOk = false → field data 0 2 ≠ 0x1B00 → s.boot.held = [] → canSend s p 3 16 = true → run fun t =>
      t.out = .bst p o.id 0xA0 0 0 :: s.out ∧ t.boot.serving = none) ∧
    (¬fits → run fun t => counted s t 0x4001 (p + 1) ∧ t.boot = s.boot)) ∧
  (∀ (p : Nat) (offer : BitVec 32) (k : ChunkId) (len : Nat) (data : List Byte) (good : Bool) (s : State),
    romPort s p = true ∨ alive s = true ∧ portUp s p = true →
    (∃ t, exec (.bdt p k len data false) s = .next t ∧ counted s t 0x4001 (p + 1) ∧ keepsAll s t) ∧
    (good = false ∨ offer = 0 → ∃ t, exec (.bof p offer len good) s = .next t ∧ counted s t 0x4001 (p + 1) ∧ keepsAll s t)) ∧
  (∀ (s : State) (o : Offer) (a : Nat × Nat) (r : List (Nat × Nat)), s.phase = .rom → s.boot.serving = some o → s.boot.held = [] →
    o.asked = a :: r → canSend (passTo s (a.2 + 100000000000)) o.port 3 16 = true →
    ∃ t, exec .brqTimeout s = .next t ∧ t.now = max s.now (a.2 + 100000000000) ∧ t.out = .bst o.port o.id 0xAC 0 0 :: s.out ∧
      t.boot.serving = none ∧ keepsCores s t) ∧
  (∀ (s : State) (i : Nat) (whole : Bool) (st e : List Byte), envCheck s i whole st e = none →
    let sg := evSigner e
    whole = true ∧ evKind e = i + 1 ∧ (evSerial e = 0 ∨ evSerial e = s.part.serial.toNat) ∧
    sha512 (evPayload e) = slice e 64 64 ∧ Config.edVerify (sg.take 32) (e.take 128) (slice sg 1984 64) = true ∧
    Config.mlVerify (slice sg 32 1952) (e.take 128) (slice sg 2048 3309) = true ∧
    (i < 2 → slotUsable s.boot (evSlot e) = true ∧ s.boot.arb ≤ evSvn e ∧
      beNat (sha3 (sg.take 1984)) = (tget 0 s.boot.slots (evSlot e)).toNat) ∧
    (i = 2 → sha3 (sg.take 1984) = slice st 32 32 ∧ evCminver st ≤ evVersion e)) ∧
  (∀ (s : State) (o : Offer) (e : List Byte) (whole : Bool), s.phase = .rom → s.boot.serving = some o → o.hdrOk = true →
    o.checked < setCount (offerData o) → nextEnvelope o = some (e, whole) →
    let st := (envelope o 0).getD []
    let sent := fun (t : State) (p : Nat) (m : Emit) => m ∈ t.out ∨ ∃ x ∈ (getPort t p).waiting, x.e = m
    (∀ c d, envCheck s o.checked whole st e = some (c, d) → s.boot.held = [] → canSend s o.port 3 16 = true →
      ∃ t, exec .envelopeCheck s = .next t ∧ t.out = .bst o.port o.id c o.checked d :: s.out ∧ t.boot.serving = none ∧
        t.phase = .rom ∧ keepsCores s t) ∧
    (envCheck s o.checked whole st e = none → o.checked + 1 ≠ setCount (offerData o) →
      ∃ t, exec .envelopeCheck s = .next t ∧ t.boot = { s.boot with serving := some { o with checked := o.checked + 1 } } ∧
        t.phase = .rom ∧ t.out = s.out ∧ keepsCores s t) ∧
    (∀ f mc, envCheck s o.checked whole st e = none → o.checked + 1 = setCount (offerData o) → fuseAsk s st = [] →
      envelope o 0 = some f → envelope o 1 = some mc →
      ∃ t l, exec .envelopeCheck s = .next t ∧ t.phase = .running ∧
        (∀ i, i < (evPayload f).length → rdByte t.mem (evLoad f + i) = (evPayload f).getD i 0) ∧
        (∀ a, a < evLoad f ∨ evLoad f + (evPayload f).length ≤ a → rdByte t.mem a = rdByte s.mem a) ∧
        t.boot.mlog = s.boot.mlog ++ l ∧ l.length = 3 ∧ sent t o.port (.bst o.port o.id 0 0 0) ∧
        (∀ h ∈ s.boot.held, sent t h.port (.bst h.port h.id 2 0 0)) ∧ (getCore t 256).own.ia = BitVec.ofNat 40 (evLoad f) ∧
        t.boot.arb = s.boot.arb ∧ t.boot.revoke = s.boot.revoke ∧ t.ctxs = s.ctxs)) ∧
  (∀ (s : State) (use : FuseUse) (f : Fuse) (r : List Fuse) (js : List FuseJob), s.phase ≠ .held →
    s.boot.fuseJobs = ⟨use, f :: r⟩ :: js →
    let bits := fun (v w : BitVec 256) (i : Nat) => bit w i = true ∧ ∀ j < 256, j ≠ i → bit w j = bit v j
    (∃ t, exec (.fuseBlow true) s = .next t ∧ t.now = s.now + 20000000 ∧ t.boot.fuseRetry = false ∧
      t.boot.arb = (if f = .arb then s.boot.arb + 1 else s.boot.arb) ∧
      t.boot.life = (if f = .life then s.boot.life + 1 else s.boot.life) ∧
      (∀ k < 4, f = .revoke k → bit t.boot.revoke k = true ∧
        ∀ j < 4, j ≠ k → bit t.boot.revoke j = bit s.boot.revoke j) ∧
      ((∀ k, f ≠ .revoke k) → t.boot.revoke = s.boot.revoke) ∧
      (∀ k i, i < 256 → f = .slot k i → bits (tget 0 s.boot.slots k) (tget 0 t.boot.slots k) i ∧
        ∀ j, j ≠ k → tget 0 t.boot.slots j = tget 0 s.boot.slots j) ∧
      ((∀ k i, f ≠ .slot k i) → t.boot.slots = s.boot.slots) ∧
      (∀ i, i < 256 → f = .secret i → bits s.boot.secret t.boot.secret i) ∧
      ((∀ i, f ≠ .secret i) → t.boot.secret = s.boot.secret) ∧
      (r ≠ [] → t.boot.fuseJobs = ⟨use, r⟩ :: js ∧ t.phase = s.phase ∧ keepsCores s t) ∧
      (r = [] → t.boot.fuseJobs = js ∧
        (use = .slotprog ∨ use = .lcadv ∨ use = .production → t.phase = s.phase ∧ keepsCores s t) ∧
        (use = .retire → t.boot.idKeys = false ∧ t.boot.attKeys = none ∧ t.boot.sessionKeys = false ∧
          (s.jrn.opened = false ∨ alive s = false → t.phase = .silent)))) ∧
    (s.boot.fuseRetry = false → ∃ t, exec (.fuseBlow false) s = .next t ∧ t.now = s.now + 20000000 ∧
      t.boot = { s.boot with fuseRetry := true } ∧ t.out = s.out ∧ keepsCores s t) ∧
    (s.boot.fuseRetry = true →
      (use = .slotprog ∨ use = .lcadv → ∃ t, exec (.fuseBlow false) s = .next t ∧
        t.boot = { s.boot with fuseJobs := js, fuseRetry := false, dbgStatus := true } ∧ keepsCores s t) ∧
      (∀ o, use = .set → s.phase = .rom → s.boot.serving = some o → s.boot.held = [] →
        canSend (passTo s (s.now + 20000000)) o.port 3 16 = true →
        ∃ t, exec (.fuseBlow false) s = .next t ∧ t.out = .bst o.port o.id 0xAA 0 0 :: s.out ∧ t.boot.serving = none ∧
          t.boot.arb = s.boot.arb ∧ t.boot.revoke = s.boot.revoke ∧ keepsCores s t)))

/-- R379, R380, R463 to R466, R471, R486 to R491: the key vault and the debug port. A report carries the host's nonce, TAINT
and the lifecycle. The TAP's instructions shift out what the manual says; EXTEST, CLAMP and HIGHZ make the device silent
first, and drive the pins from the boundary register or not at all.
SLOTPROG, in Blank and Development, LCADV and a token's advance of the lifecycle blow their fuse bits one by one. A token is
spent whatever its outcome; one that passes opens debug in Production, or advances the lifecycle. The debug master reads
and writes words in Blank and Development, a word with an uncorrectable error as POISON x4, but no word of a reserved class
(R156, log entry 115); a refused access is an error, counted when it touches a sealed range. A dual-signed envelope spends
the command nonce, and a failed one is counted. The items of x8013 and x8011 (log entry 22), that a write is judged by the
entry as the changes before it leave it (64) and that an unaligned DAP access is an error (88) are the model's choices. -/
def Obligations.VaultAndDebug : Prop :=
  (∀ (nonce : List Byte) (s : State), alive s = true → s.boot.life ≠ 4 →
    (nonce.length = 32 → s.boot.reportAsk = none → ∃ t, exec (.reportRequest nonce) s = .next t ∧
      t.boot = { s.boot with reportAsk := some nonce } ∧ keepsCores s t ∧ keepsEngine s t ∧ keepsPlane s t) ∧
    (nonce.length ≠ 32 ∨ s.boot.reportAsk ≠ none → exec (.reportRequest nonce) s = .next s) ∧
    (s.boot.reportAsk = some nonce → nonce.length = 32 → ∃ t r, exec .reportComplete s = .next t ∧ t.boot.report = some r ∧
      t.boot.reportAsk = none ∧ field r 0 2 = 0x1A01 ∧ field r 2 1 = s.boot.life % 256 ∧ slice r 24 32 = nonce ∧
      field r 3 1 = b2n (s.boot.taint || decide (s.boot.life ≤ 2)) + 2 * b2n (joined s) ∧ keepsCores s t ∧ keepsEngine s t ∧ keepsPlane s t)) ∧
  (∀ s : State, s.phase ≠ .held →
    let run := fun (c : Instr) (P : State → Prop) => ∃ t, exec c s = .next t ∧ P t ∧ keepsCores s t
    let still := fun t : State => t.phase = s.phase ∧ t.baro = s.baro ∧ t.out = s.out ∧ keepsEngine s t
    run .idcode (fun t => (s.part.stepping = 0 → t.boot.tapOut = 0x08600BA7) ∧ still t) ∧
    run .bypass (fun t => t.boot.tapOut = 0 ∧ t.boot.pinDrive = .device ∧ still t) ∧
    run .samplePreload (fun t => t.boot.tapIr = 2 ∧ (∃ k, t.boot.bscan = Config.scanIn k) ∧ still t) ∧
    run .dbgnonce (fun t => t.boot.tapOut = BitVec.ofNat 160 (s.boot.dbgNonce.toNat + 2 ^ 128 * b2n s.boot.dbgStatus) ∧
      t.boot.dbgStatus = false ∧ t.boot.dbgNonce = s.boot.dbgNonce ∧ still t) ∧
    (∀ c ∈ ([.extest, .clamp, .highz] : List Instr), run c fun t => t.phase = .silent ∧
      t.boot.pinDrive = (if c = .highz then .highZ else .boundary) ∧ (s.phase ≠ .silent → t.baro.safeOut = false) ∧
      keepsEngine s t) ∧
    let jobs := fun (t : State) (use : FuseUse) (bits : List Fuse) =>
      t.boot.fuseJobs = s.boot.fuseJobs ++ [⟨use, bits⟩] ∧ t.boot.life = s.boot.life ∧ t.boot.slots = s.boot.slots ∧
      t.boot.dbgStatus = s.boot.dbgStatus
    (∀ (slot : Fin 4) (hash : BitVec 256),
      let free := s.boot.life ≤ 2 ∧ tget 0 s.boot.slots slot.val = 0 ∧ ∀ j ∈ s.boot.fuseJobs, j.use ≠ .slotprog
      (free → hash ≠ 0 → run (.slotprog slot hash) fun t =>
        jobs t .slotprog (((List.range 256).filter fun i => bit hash i).map (.slot slot.val)) ∧ still t) ∧
      (¬free → run (.slotprog slot hash) fun t =>
        t.boot.slots = s.boot.slots ∧ t.boot.fuseJobs = s.boot.fuseJobs ∧ t.boot.dbgStatus = true ∧ still t)) ∧
    (s.boot.life = 1 → tget 0 s.boot.slots 0 ≠ 0 → lifeBusy s.boot = false →
      run .lcadv fun t => jobs t .lcadv [.life] ∧ still t) ∧
    (s.boot.life ≠ 1 ∨ tget 0 s.boot.slots 0 = 0 ∨ lifeBusy s.boot = true → run .lcadv fun t =>
      t.boot.life = s.boot.life ∧ t.boot.fuseJobs = s.boot.fuseJobs ∧ t.boot.dbgStatus = true ∧ still t) ∧
    (∀ bytes : List Byte,
      run (.dbgtoken bytes) (fun t =>
        (∃ k, s.free ≤ k ∧ k < t.free ∧ t.boot.dbgNonce = Config.freeNonce k) ∧
        (tokenOk s bytes = false ∨ s.phase = .silent →
          { t.boot with dbgNonce := s.boot.dbgNonce, tapIr := s.boot.tapIr, tapOut := s.boot.tapOut, pinDrive := s.boot.pinDrive }
            = s.boot ∧ still t) ∧
        (s.phase ≠ .silent →
        (tokenOk s bytes = true → field bytes 2 1 = 1 → s.boot.life = 3 → t.boot.taint = true ∧ t.boot.debugOpen = true ∧
          t.boot.sessionKeys = false ∧ t.boot.life = 3 ∧ t.phase = s.phase) ∧
        (tokenOk s bytes = true → field bytes 2 1 = 2 → s.boot.life = 2 → lifeBusy s.boot = false →
          jobs t .production [.life] ∧ still t) ∧
        (tokenOk s bytes = true → field bytes 2 1 = 3 → s.boot.life = 2 ∨ s.boot.life = 3 → lifeBusy s.boot = false →
          jobs t .retire (List.replicate (4 - s.boot.life) .life ++
            ((List.range 256).filter fun i => !bit s.boot.secret i).map .secret) ∧ still t))) ∧
      (tokenOk s bytes = true → bytes.length = 5421 ∧ field bytes 8 8 = s.part.serial.toNat ∧
        field bytes 16 16 = s.boot.dbgNonce.toNat ∧ Config.edVerify (slice bytes 64 32) (bytes.take 64) (slice bytes 2048 64) = true ∧
        Config.mlVerify (slice bytes 96 1952) (bytes.take 64) (slice bytes 2112 3309) = true))) ∧
  (∀ (addr : Addr) (w : TWord) (s : State), let a := addr.toNat
    s.phase ≠ .held →
    let closed := s.boot.life = 4 ∨ (s.boot.life = 3 ∧ s.boot.debugOpen = false) ∨ a % 8 ≠ 0 ∨ dapSealed s a = true
    (closed → ∀ op, ∃ t, exec (.dap op addr w) s = .next t ∧ t.boot.dapErr = true ∧
      t.boot.sacc = (if dapSealed s a then min (s.boot.sacc + 1) (2 ^ 32 - 1) else s.boot.sacc) ∧ keepsCores s t ∧ keepsEngine s t) ∧
    (s.phase ≠ .silent → s.pwr.cur < 3 → s.boot.life = 1 ∨ s.boot.life = 2 → a % 8 = 0 → dapSealed s a = false →
      a + 8 ≤ dramBytes s.part → a + 8 ≤ 0xF000000000 →
      (∀ err, ∃ t, exec (.dap (.read err) addr w) s = .next t ∧ keepsCores s t ∧ keepsEngine s t ∧ t.boot.dapErr = false ∧
        t.boot.tapOut = BitVec.ofNat 160 (if err = .double then 0xF4 * 2 ^ 64 + a
          else (rdWord s.mem a).tag.toNat * 2 ^ 64 + (rdWord s.mem a).pay.toNat)) ∧
      (dapReserved w = false →
        ∃ t, exec (.dap .write addr w) s = .next t ∧ rdWord t.mem a = w ∧ (∀ b, b < a ∨ a + 8 ≤ b → rdByte t.mem b = rdByte s.mem b) ∧
          t.boot.dapErr = false ∧ t.cores = s.cores ∧ t.ctxs = s.ctxs ∧ t.cells = s.cells ∧ keepsEngine s t) ∧
      (12 ≤ fld w.tag 7 4 → fld w.tag 7 4 ≤ 14 →
        ∃ t, exec (.dap .write addr w) s = .next t ∧ t.boot.dapErr = true ∧ keepsCores s t ∧ keepsEngine s t))) ∧
  (∀ (env : List Byte) (s : State), alive s = true → env.length = 3437 →
    let spent := fun t : State => ∃ k, s.free ≤ k ∧ k < t.free ∧ t.baro.nonce = Config.freeNonce k
    (∀ p ∈ ([(1, .timeStep env), (2, .closeLater env), (3, .reopen env), (4, .mogLimits env)] : List (Nat × Instr)),
      (commandOk s p.1 env = false → ∃ t, exec p.2 s = .next t ∧ spent t ∧ counted s t 0x4000 0x0D ∧ keepsAll s t) ∧
      (commandOk s p.1 env = true → ∃ t, exec p.2 s = .next t ∧ spent t ∧ keepsCores s t ∧ t.time = s.time ∧ t.adm.pools = s.adm.pools ∧
        field env 16 16 = s.baro.nonce.toNat ∧ Config.edVerify s.boot.cmdEd (env.take 64) (slice env 64 64) = true ∧
        Config.mlVerify s.boot.cmdMl (env.take 64) (slice env 128 3309) = true)) ∧
    (commandOk s 4 env = true → let f := field env 32 2
      let e := field env 34 2
      1 ≤ f → f ≤ 2000 → 1 ≤ e → e ≤ 100 → ∃ t, exec (.mogLimits env) s = .next t ∧ t.baro.mogFrames = f ∧ t.baro.mogEmcy = e ∧ keepsAll s t) ∧
    (commandOk s 1 env = true → let step := field env 32 8
      1 ≤ step → step ≤ 86400000000000 → deviceReady s = true → s.jrn.opened = true →
      sysRoom s (mkItem 0x8013 (beBytes 8 step)).length = true → ∃ t r, exec (.timeStep env) s = .next t ∧
        t.jrn.path = s.jrn.path ++ [r] ∧ r.kind = 0x13 ∧ r.body = mkItem 0x8013 (beBytes 8 step) ∧ keepsCores s t ∧ keepsDevice s t) ∧
    (let n := field env 32 2
     let e := poolAhead s n
     let w := slotW s (claimSlot s)
     let free := deviceReady s = true ∧ s.jrn.opened = true ∧ writesAllowed s = true ∧ primaryFor s (pgPart e) = true ∧
       sysRoom s (mkItem 0x8011 (beBytes 8 n ++ beBytes 8 w ++ zeros 32)).length = true
     let later := setFld e 127 64 (field env 40 8)
     let again := setFld (setFld e 191 128 (field env 40 8)) 127 64 (field env 48 8)
     (commandOk s 2 env = true → free → pgState e = 1 → pgClose e < pgClose later → w < pgClose e →
       ∃ t, exec (.closeLater env) s = .next t ∧
         t.adm.changes = s.adm.changes ++ [⟨some n, none, pgNew later (bit e 247) w, [], w⟩] ∧ keepsCores s t ∧ keepsDevice s t) ∧
     (commandOk s 3 env = true → free → pgState e = 1 → pgClose e ≤ w → w + 2000 ≤ pgOpen again → pgOpen again < pgClose again →
       ∃ t, exec (.reopen env) s = .next t ∧
         t.adm.changes = s.adm.changes ++ [⟨some n, none, pgNew again true w, [], w⟩] ∧ keepsCores s t ∧ keepsDevice s t)))

-- the power ladder and resets

/-- R493 to R506, R512, R516, R567: the ladder. CLAD writes take a cell to Frost, where its memory is zero, bring it back in
100 µs, or make it eligible; one that meets bound work or a reserved field is refused and counted. An idle cell descends one
rung when its idle time has passed and the floor and the warm reserve allow; its exit ends in Gale. DLAD sets the target and
SVC, which SAFE_OUT_N follows. The device begins an entry of the deepest rung allowed when calm, before Mist and Frost with
MNT x000A, and is in the rung once its ports are in electrical idle; a wake source during it abandons Breeze and Drizzle
and follows the entry of the others. It wakes in the rung's exit time, from Frost by the resume copy or through a boot, or
is silent where REFCLK is absent. Ledger time never decreases over an entry. Of the model's choice are when an entry takes
effect (log entries 37, 109), what a cell in Frost (84) and a device in Frost (86) lose, and that a register command wakes
the device (131). -/
def Obligations.PowerLadder : Prop :=
  (∀ (n : Nat) (v : Word) (s : State), let x := getCell s n
    alive s = true →
    let run := fun (c : Nat → Word → Instr) (P : State → Prop) => ∃ t, exec (c n v) s = .next t ∧ P t
    let others := fun t : State => (∀ m, m ≠ n → getCell t m = getCell s m) ∧ t.ctxs = s.ctxs ∧ keepsEngine s t ∧ keepsDevice s t
    let ok := n < ratedCells s.part.variant ∧ fld v 53 0 = 0 ∧ fld v 59 56 ≤ 3
    ∀ c ∈ ([.cladOff, .cladOn, .cladRdy] : List (Nat → Word → Instr)),
      (ok → bit v 55 = true → x.off = false → cellHolds s n = false →
        (∀ i < 4, (getCore s (4 * n + i)).sb = [] ∧ (getCore s (4 * n + i)).far = []) → run c fun t =>
          (getCell t n).cur = 4 ∧ (getCell t n).off = true ∧ (getCell t n).rdy = false ∧ (getCell t n).heap = [] ∧
          (getCell t n).floor = fld v 59 56 ∧ (∀ b, rdByte t.mem b = if winBase n ≤ b ∧ b < winBase n + 0x80000 then 0 else rdByte s.mem b) ∧ others t) ∧
      (ok → bit v 55 = false → x.off = true → run c fun t => (getCell t n).off = false ∧
        (getCell t n).exitAt = some ((mailed s).now + 100000000) ∧ (getCell t n).floor = fld v 59 56 ∧ t.mem = s.mem ∧ t.cores = s.cores ∧ others t) ∧
      (ok → bit v 55 = false → x.off = false → run c fun t => (getCell t n).rdy = bit v 54 ∧ (getCell t n).floor = fld v 59 56 ∧
        (getCell t n).cur = x.cur ∧ (x.svc = .remap → bit v 54 = true → (getCell t n).svc = .ok) ∧ t.mem = s.mem ∧ t.cores = s.cores ∧ others t) ∧
      (¬ok ∨ (bit v 55 = true ∧ x.off = false ∧ cellHolds s n = true) → run c fun t => counted s t 0x4000 1 ∧ keepsAll s t)) ∧
  (∀ (n : Nat) (s : State), let x := getCell s n
    alive s = true →
    (n ∈ idleCells s → x.exitAt = none → x.cur < cellLimit s n →
      let wait := if x.cur = 1 then s.pwr.tdz * 1000000 else if x.cur = 2 then s.pwr.tms * 1000000 else 0
      ∃ t, exec (.cellDescent n) s = .next t ∧ getCell t n = { x with cur := x.cur + 1 } ∧ t.now = max s.now (x.idleAt + wait) ∧
        (∀ m, m ≠ n → getCell t m = getCell s m) ∧ t.cores = s.cores ∧ t.ctxs = s.ctxs ∧ t.mem = s.mem ∧ keepsEngine s t ∧ keepsDevice s t) ∧
    (∀ a, x.exitAt = some a → ∃ t, exec (.wake n) s = .next t ∧ (getCell t n).cur = 0 ∧ (getCell t n).exitAt = none ∧
      t.now = max s.now a ∧ (∀ m, m ≠ n → getCell t m = getCell s m) ∧ t.cores = s.cores ∧ t.ctxs = s.ctxs ∧ t.mem = s.mem ∧
      keepsEngine s t ∧ keepsDevice s t)) ∧
  (∀ (v : Word) (s : State), alive s = true →
    let u := mailed s
    let ok := fld v 53 51 = 0 ∧ fld v 30 0 = 0 ∧ fld v 59 56 ≤ 4 ∧ (s.part.variant = .e → fld v 47 44 = 0) ∧ tgtOk u (fld v 59 56) = true
    (ok → ∃ t, exec (.dladSvc v) s = .next t ∧ t.pwr = { u.pwr with tgt := fld v 59 56, wake := BitVec.ofNat 11 (fld v 50 40), svc := bit v 31 } ∧
      t.baro.safeOut = bit v 31 ∧ t.out = (if s.baro.safeOut = bit v 31 then u.out else .safeOut (bit v 31) :: u.out) ∧ keepsAll s t) ∧
    (¬ok → ∃ t, exec (.dladSvc v) s = .next t ∧ counted s t 0x4000 1 ∧ t.pwr = u.pwr ∧ t.baro = u.baro ∧ keepsAll s t)) ∧
  (∀ s : State, let r := rungAllowed s
    let run := fun (P : State → Prop) => ∃ t, exec .deviceRungEntry s = .next t ∧ P t
    let calm := deviceCalm s = true ∧ portsCalm s = true
    let quiet := ∀ p < 9, portStirs s p = false ∧ portQuiet s p = true
    let entered := fun (k t0 : Nat) (t : State) => t.pwr.cur = k ∧ t.pwr.fexit = false ∧ t.pwr.enteredAt = t.now ∧
      t.pwr.entering = none ∧
      t.now = max s.now (t0 + if k = 1 then 1000000 else if k = 2 then 500000 else if k = 3 then 20000000 else 150000000) ∧
      t.pwr.memPins = (if k < 3 then .powerDown else .selfRefresh) ∧
      ledgerNow s ≤ ledgerNow t ∧ t.mem = s.mem ∧ t.jrn = s.jrn ∧ t.cells = s.cells ∧
      (k < 3 → t.sessions = s.sessions ∧ t.ports = s.ports ∧ keepsAll s t) ∧
      (3 ≤ k → t.time.holdover = true) ∧
      (k = 3 → t.ctxs = s.ctxs ∧ t.cores = s.cores ∧ t.adm = s.adm ∧ t.prot = s.prot ∧ t.pair = s.pair) ∧
      (k = 4 → t.ctxs = [] ∧ t.cores = [] ∧ t.adm.rows = [] ∧ t.adm.pools = [] ∧ t.prot.actA = [] ∧ t.prot.epoch = 0 ∧
        t.pair.cfg = s.pair.cfg ∧ t.pair.pserial = s.pair.pserial ∧
        (s.prot.fsealOn = true → t.pwr.saved = some (s.ctxs, s.prot.keys)))
    alive s = true → s.pwr.wakeDue = none →
    (s.pwr.entering = none → s.pwr.cur < r → r ≤ 4 → calm → rested s = true →
      (quiet → r < 3 ∨ activePorts s = [] → run fun t => entered r s.now t ∧ (3 ≤ r → t.sessions = [])) ∧
      (3 ≤ r → ∀ q < 8, portActive s q = true → (getPort s q).ls = .up → (getPort s q).mnts = [] →
        mntFits (getPort s q) s.now 0x0A = true →
        run fun t => t.pwr.entering = some (r, s.now) ∧ t.pwr.cur = s.pwr.cur ∧ t.sessions = [] ∧
          (∃ k, let d := BitVec.ofNat 64 r
            .mnt q 0x0A k d ∈ t.out ∨ (0x0A, d) ∈ (getPort t q).mnts) ∧ t.mem = s.mem ∧ t.jrn = s.jrn)) ∧
    (∀ k t0, s.pwr.entering = some (k, t0) → 1 ≤ k → k ≤ 4 →
      (k < 3 → ¬(calm ∧ k ≤ r) → run fun t => t.pwr.entering = none ∧ t.pwr.cur = s.pwr.cur ∧ t.now = s.now ∧ keepsAll s t) ∧
      ((k < 3 → calm ∧ k ≤ r) → quiet → run fun t => entered k t0 t))) ∧
  (∀ (src : Byte) (s : State), let k := src.toNat
    s.phase = .running → k ≠ 11 → 1 ≤ k →
    let run := fun (P : State → Prop) => ∃ t, exec (.deviceWake src) s = .next t ∧ P t
    let gone := s.pwr.refLost = true ∧ ∀ a, s.pwr.refBackAt = some a → s.now < a
    (∀ r t0, s.pwr.entering = some (r, t0) → k ≤ 12 →
      (r < 3 → run fun t => t.pwr.entering = none ∧ (s.pwr.cur = 0 → t.now = s.now) ∧ t.sessions = s.sessions ∧ keepsAll s t) ∧
      (3 ≤ r → run fun t => t.pwr = { s.pwr with wakeDue := some (match s.pwr.wakeDue with | some w => min w k | none => k) } ∧
        t.now = s.now ∧ t.ports = s.ports ∧ t.sessions = s.sessions ∧ keepsAll s t)) ∧
    (s.pwr.entering = none →
      (s.pwr.cur = 1 ∨ s.pwr.cur = 2 → k ≤ 12 → run fun t => t.pwr.cur = 0 ∧ t.pwr.wsrc = k ∧
        t.now = s.now + (if s.pwr.cur = 1 then 100000 else 1000000) ∧ t.pwr.memPins = .active ∧
        t.sessions = s.sessions ∧ keepsAll s t) ∧
      (s.pwr.cur = 3 → k ≤ 10 → bit s.pwr.wake (k - 1) = true → run fun t => t.pwr.cur = 0 ∧ t.pwr.wsrc = k ∧
        t.now = s.now + 10000000 ∧ t.time.holdover = false ∧ t.phase = .running ∧ keepsCores s t ∧ keepsEngine s t) ∧
      (s.pwr.cur = 4 → k ≤ 10 → bit s.pwr.wake (k - 1) = true →
        (gone → run fun t => t.phase = .silent) ∧
        (¬gone → (resumeImages s).isSome = true → run fun t => t.phase = .running ∧ t.pwr.cur = 0 ∧
          t.pwr.fexit = true ∧ t.pwr.wsrc = k ∧ t.now = s.now + 100000000 ∧ t.mem = s.mem ∧
          (∀ cs ks, s.pwr.saved = some (cs, ks) → t.ctxs = cs ∧ t.prot.keys = ks)) ∧
        (¬gone → resumeImages s = none → bit s.baro.chat 2 = false → run fun t => t.phase = .rom ∧ t.ctxs = [] ∧
          t.pwr.saved = none ∧ t.baro.boots = s.baro.boots + 1)) ∧
      ((3 ≤ s.pwr.cur ∧ bit s.pwr.wake (k - 1) = false) ∨ s.pwr.cur = 0 → exec (.deviceWake src) s = .next s))) ∧
  (∀ s : State, s.phase = .running → s.pwr.ticks ≠ 0 → s.pwr.entering = none →
    let due := max s.now (s.pwr.enteredAt + s.pwr.ticks * 1000000000000 / 32768)
    (s.pwr.cur = 1 ∨ s.pwr.cur = 2 →
      ∃ t, exec .wakeTimerExpiry s = .next t ∧ t.pwr.cur = 0 ∧ t.pwr.wsrc = 11 ∧ t.sessions = s.sessions ∧ keepsAll s t ∧
        t.now = due + (if s.pwr.cur = 1 then 100000 else 1000000)) ∧
    (s.pwr.cur = 3 → bit s.pwr.wake 10 = true →
      ∃ t, exec .wakeTimerExpiry s = .next t ∧ t.pwr.cur = 0 ∧ t.pwr.wsrc = 11 ∧ t.phase = .running ∧
        t.now = due + 10000000 ∧ keepsCores s t ∧ keepsEngine s t))

/-- R509 to R515, R554, R567: resets. PORST_N low, TESTEN high or VAON out of its window clear every on-die state but the
fuses; released, the device self-tests for 2 ms and its boot ROM runs. SYSRST_N, past its filter of 10 µs and unless its
chatter latch holds, keeps what the always-on domain keeps and counts a boot; while that of FORCE_SAFE_N holds, fail-silent
follows (R456). Another supply out of its window makes the device silent (code x11). Of the model's choice are the reset
10 µs after the last raw transition (log entry 116), the cells that count as failed (117) and that a system reset resets
what R509 does not list (90). -/
def Obligations.Resets : Prop :=
  let cleared := fun (s t : State) => t.phase = .held ∧ t.mem = ⟨[], []⟩ ∧ t.cores = [] ∧ t.ctxs = [] ∧ t.cells = [] ∧
    t.ports = [] ∧ t.sessions = [] ∧ t.jrn = Journal.reset ∧ t.adm = Admission.reset ∧ t.time = LedgerTime.reset ∧
    t.prot = Prot.reset ∧ t.pair = Pair.reset ∧ t.baro.log = [] ∧ t.baro.safeOut = false ∧ t.baro.src = 0 ∧ t.boot.taint = false ∧
    t.boot.slots = s.boot.slots ∧ t.boot.revoke = s.boot.revoke ∧ t.boot.life = s.boot.life ∧ t.boot.arb = s.boot.arb ∧
    t.boot.secret = s.boot.secret ∧ t.boot.fuseJobs = [] ∧ t.pwr.memReset = false ∧ t.pwr.memPins = .idle ∧ t.pending = s.pending ∧ t.part = s.part
  (∀ s : State,
    (∃ t, exec .powerOnReset s = .next t ∧ cleared s t ∧ t.pwr.porst = true) ∧
    (∃ t, exec (.testen true) s = .next t ∧ cleared s t ∧ t.pwr.testen = true) ∧
    (∃ t, exec (.supplyOutOfWindow 2) s = .next t ∧ cleared s t ∧ bit t.pwr.supplies 2 = false) ∧
    (∀ k : Fin 7, k ≠ 2 → s.phase ≠ .held → s.phase ≠ .silent →
      ∃ t, exec (.supplyOutOfWindow k) s = .next t ∧ t.phase = .silent ∧ t.baro.last = 0x11 ∧ t.baro.safeOut = false ∧
        keepsCores s t ∧ keepsEngine s t)) ∧
  (∀ s : State,
    let starts := fun (c : Instr) => ∃ t, exec c s = .next t ∧ t.phase = .selfTest ∧ t.pwr.selfTestAt = s.now + 2000000000 ∧
      t.mem = s.mem ∧ t.boot = s.boot
    s.phase = .held →
    (s.pwr.testen = false → s.pwr.supplies = 0x7F → starts .porstNRelease) ∧
    (s.pwr.porst = false → s.pwr.supplies = 0x7F → starts (.testen false)) ∧
    (s.pwr.porst = false → s.pwr.testen = false → starts .suppliesInWindow) ∧
    (s.pwr.testen = true → ∃ t, exec .porstNRelease s = .next t ∧ t.phase = .held ∧ t.pwr.porst = false) ∧
    exec .systemReset s = .next s) ∧
  (∀ s : State, s.phase = .selfTest →
    ∃ t, exec .barometerSelfTest s = .next t ∧ t.phase = .rom ∧ t.now = max s.now s.pwr.selfTestAt ∧ t.boot.mlog.length = 2 ∧
      t.boot.dramOk = gibsOk s.part ∧ (gibsOk s.part = true → t.baro = s.baro) ∧
      (gibsOk s.part = false → bit t.baro.src 0x1A = true) ∧ t.pwr.memReset = true ∧ t.pwr.memPins = .active ∧
      keepsCores s t ∧ keepsEngine s t) ∧
  (∀ s : State, s.phase ≠ .held →
    (bit s.baro.chat 0 = true → exec .systemReset s = .next s) ∧
    (bit s.baro.chat 0 = false → bit s.baro.chat 2 = true → ∃ t, exec .systemReset s = .next t ∧ t.phase = .silent ∧
      t.baro.boots = s.baro.boots + 1 ∧ t.baro.safeOut = false) ∧
    (bit s.baro.chat 0 = false → bit s.baro.chat 2 = false → gibsOk s.part = true →
      ∃ t, exec .systemReset s = .next t ∧ t.phase = .rom ∧ t.baro.boots = s.baro.boots + 1 ∧ t.baro.safeOut = false ∧
        t.baro.log = s.baro.log ∧ t.baro.src = s.baro.src ∧ t.baro.chat = s.baro.chat ∧ t.baro.wdPeriod = s.baro.wdPeriod ∧
        t.boot.taint = s.boot.taint ∧ t.boot.sacc = s.boot.sacc ∧ t.boot.debugOpen = false ∧ t.boot.slots = s.boot.slots ∧
        t.boot.arb = s.boot.arb ∧ t.time.running = s.time.running ∧ ledgerNow t = ledgerNow { s with now := t.now } ∧
        (∀ a l, s.baro.raw2 = a :: l → t.now = max s.now (a + 10000000)) ∧ t.nextSession = s.nextSession ∧
        t.baro.failed = s.baro.failed ∧ t.baro.events = s.baro.events ∧ t.baro.flips = s.baro.flips ∧
        t.mgmt.nodeId = s.mgmt.nodeId ∧ t.pair.cfg = s.pair.cfg ∧ t.pair.pserial = s.pair.pserial ∧
        t.pair.homemap = s.pair.homemap ∧ t.pair.adp = s.pair.adp ∧ t.pair.st = .joining ∧ t.prot.fseal = s.prot.fseal ∧
        t.prot.fsealOn = s.prot.fsealOn ∧ t.prot.jsealOn = false ∧ t.prot.keys = [] ∧ t.cores = [] ∧ t.ctxs = [] ∧ t.cells = [] ∧
        t.sessions = [] ∧ t.jrn = Journal.reset ∧ t.adm = Admission.reset ∧ t.pwr.cur = 0 ∧ t.pwr.svc = false ∧
        t.pair.hbOut = false ∧ t.boot.secret = s.boot.secret))

-- the management plane

/-- R408, R517 to R519, R530 to R538, R542, R548, R550: requests on VC2. A read answers the object's value, big-endian; an
absent index, an absent sub-index and an object that cannot be read answer their abort codes. A write answers the first
abort code that applies, or is applied whole. An operation that does not match its object, and a ninth request outstanding,
are answered at once; a malformed one is counted. An MRS echoes its request; an abort is counted. A FROZEN record is
released, the error list cleared; the first node-ID starts the CAN FD port. -/
def Obligations.ManagementRequests : Prop :=
  (∀ (p : Nat) (idx : BitVec 16) (sub : Byte) (id : BitVec 32) (data : List Byte) (s : State) (x : Session),
    let i := idx.toNat
    let k := sub.toNat
    let old := (getPort s p).answers
    let owed := fun (t : State) (op abort : Nat) (bs : List Byte) =>
      (getPort t p).answers = old ++ [⟨x.id, echoOf idx sub op id, abort, bs, none, 0, s.now⟩]
    let read := fun (P : State → Prop) => ∃ t, exec (.mrqRead p idx sub id true) s = .next t ∧ P t ∧ onlyPort s t p ∧ keepsAll s t
    let write := fun (P : State → Prop) => ∃ t, exec (.mrqWrite p idx sub id data true) s = .next t ∧ P t
    let signed := fun (P : State → Prop) => ∃ t, exec (.mrqSignedWrite p idx sub id data true) s = .next t ∧ P t
    alive s = true → portUp s p = true → activeSession s p = some x →
    (8 ≤ old.length → read fun t => owed t 1 0x05040005 []) ∧
    (old.length < 8 →
      (∀ a, objMissing i k = some a → read fun t => owed t 1 a []) ∧
      (objMissing i k = none → objAcc i k = .wo ∨ objAcc i k = .sw → read fun t => owed t 1 0x06010001 []) ∧
      (∀ v, isCounter i k = false → objRead s (.session x.id) i k = .ok v → read fun t => owed t 1 0 (valBytes false v) ∧ t.mgmt = s.mgmt) ∧
      (objMissing i k = none → objAcc i k ≠ .sw →
        (objAcc i k = .const ∨ objAcc i k = .ro → write fun t => owed t 2 0x06010002 [] ∧ onlyPort s t p ∧ keepsAll s t) ∧
        (objAcc i k ≠ .const → objAcc i k ≠ .ro → data.length ≠ lenOf i k → write fun t =>
          owed t 2 0x06070010 [] ∧ onlyPort s t p ∧ keepsAll s t) ∧
        (data.length = lenOf i k →
          (i = 0x2500 → k = 1 → 600 ≤ beNat data → beNat data ≤ 3600 → write fun t => owed t 2 0 [] ∧
            t.adm = { s.adm with retention := beNat data } ∧ onlyPort s t p ∧ keepsCores s t ∧ t.jrn = s.jrn ∧ keepsDevice s t) ∧
          (i = 0x2500 → k = 1 → beNat data < 600 ∨ 3600 < beNat data → write fun t => owed t 2 0x06090030 [] ∧ onlyPort s t p ∧ keepsAll s t) ∧
          (i = 0x2100 → k = 3 → fld (BitVec.ofNat 64 (beNat data)) 63 32 = 0 → write fun t => owed t 2 0 [] ∧
            t.pwr.ticks = beNat data ∧ onlyPort s t p ∧ keepsAll s t) ∧
          (i = 0x1003 → k = 0 → beNat data = 0 → write fun t => owed t 2 0 [] ∧ t.mgmt.errs = [] ∧ onlyPort s t p ∧ keepsAll s t))) ∧
      (objMissing i k = none → objAcc i k = .sw → write fun t => owed t 2 0x05040001 [] ∧ onlyPort s t p ∧ keepsAll s t) ∧
      (objMissing i k = none → objAcc i k ≠ .sw → signed fun t => owed t 3 0x05040001 [] ∧ onlyPort s t p ∧ keepsAll s t) ∧
      (i = 0x2202 → 1 ≤ k → k ≤ 4 →
        (data.length ≠ 3437 → signed fun t => owed t 3 0x06070010 [] ∧ onlyPort s t p ∧ keepsAll s t) ∧
        (data.length = 3437 → commandOk s k data = false → signed fun t => owed t 3 0x08000020 [] ∧ counted s t 0x4000 0x0D ∧
          onlyPort s t p ∧ keepsAll s t) ∧
        (data.length = 3437 → k = 4 → commandOk s 4 data = true → 1 ≤ field data 32 2 → field data 32 2 ≤ 2000 →
          1 ≤ field data 34 2 → field data 34 2 ≤ 100 → signed fun t => owed t 3 0 [] ∧ t.baro.mogFrames = field data 32 2 ∧
          t.baro.mogEmcy = field data 34 2 ∧ onlyPort s t p ∧ keepsAll s t)))) ∧
  (∀ (p : Nat) (idx : BitVec 16) (sub : Byte) (id : BitVec 32) (data : List Byte) (s : State), alive s = true → portUp s p = true →
    ∀ c ∈ ([.mrqRead p idx sub id false, .mrqWrite p idx sub id data false, .mrqSignedWrite p idx sub id data false] : List Instr),
      ∃ t, exec c s = .next t ∧ counted s t 0x4001 (p + 1) ∧ keepsAll s t) ∧
  (∀ (p : Nat) (s : State) (a : Answer), alive s = true → portActive s p = true →
    ((getPort s p).answers.find? fun a => answerReady s a.w a.hold) = some a → canSend s p 2 (16 + roundUp a.data.length 8) = true →
    ∃ t, exec (.mrs p) s = .next t ∧ t.out = .mrs p a.echo a.abort a.data :: s.out ∧ (getPort t p).answers = (getPort s p).answers.erase a ∧
      (a.abort ≠ 0 → counted s t 0x4000 0x12) ∧ (a.abort = 0 → t.mgmt = s.mgmt) ∧ onlyPort s t p ∧ keepsAll s t) ∧
  (∀ (s : State) (cl : Client), let num := fun (i k n v : Nat) => objRead s cl i k = .ok (.num n v)
    num 0x1000 0 4 0 ∧ num 0x1018 1 4 0xD53 ∧ num 0x2000 0 8 s.part.serial.toNat ∧ num 0x2002 0 1 s.mgmt.nodeId ∧
    num 0x2001 0 4 (match s.part.variant with | .g => 0x0040FF03 | .m => 0x0030FF03 | .e => 0x00200F00) ∧
    num 0x1018 2 4 (match s.part.variant with | .g => 0x00860047 | .m => 0x0086004D | .e => 0x00860045) ∧
    num 0x2501 1 4 50 ∧ num 0x2501 2 4 250 ∧ num 0x2501 3 4 2000 ∧ num 0x2501 4 4 20000 ∧ num 0x2400 2 8 s.pair.pserial.toNat ∧
    num 0x2800 1 8 (ledgerNow s) ∧ num 0x2700 7 1 s.boot.life ∧ (s.boot.report = none → objRead s cl 0x2700 4 = .error 0x08000024) ∧
    (∀ p < 9, objRead s cl 0x2301 (p + 1) = .ok (.num 8 (pstatRead s p).toNat)) ∧
    (∀ n < 64, objRead s cl 0x2901 n = .ok (.num 8 (cladRead s n).toNat)) ∧ (∀ i, 0x5000 ≤ i → objRead s cl i 0 = .error 0x06020000)) ∧
  (∀ (n : Nat) (v : Byte) (s : State), alive s = true →
    ((getCtx s n).st = .frozen → ∃ t, exec (.releaseFrozenRecord n) s = .next t ∧ getCtx t n = Ctx.free ∧
      (∀ m, m ≠ n → getCtx t m = getCtx s m) ∧
      (∀ c, let k := getCore s c
        getCore t c = if c = (getCtx s n).lane then
          { k with banks := k.banks.erase n, fpBanks := k.fpBanks.erase n, far := forgetFar k.far n } else k) ∧
      t.mem = s.mem ∧ keepsEngine s t ∧ keepsDevice s t ∧ keepsPlane s t) ∧
    ((getCtx s n).st ≠ .frozen → exec (.releaseFrozenRecord n) s = .next s) ∧
    (∃ t, exec .errorListClear s = .next t ∧ t.mgmt = { s.mgmt with errs := [] } ∧ t.out = s.out ∧ keepsAll s t) ∧
    (1 ≤ v.toNat → v.toNat ≤ 127 → ∃ t, exec (.nodeIdWrite v) s = .next t ∧ t.mgmt.nodeId = v.toNat ∧ keepsAll s t ∧
      (s.mgmt.nodeId ≠ 0 → t.mgmt = { s.mgmt with nodeId := v.toNat } ∧ t.out = s.out) ∧
      (s.mgmt.nodeId = 0 → t.mgmt.nodeUse = v.toNat ∧ t.mgmt.nmt = .preOperational ∧ t.mgmt.hbMs = 1000)) ∧
    (v.toNat = 0 ∨ 127 < v.toNat → exec (.nodeIdWrite v) s = .next s))

/-- R463, R522, R524 to R530: the CAN FD port. NMT commands to the node or to all move its state; both resets return the profile
objects to their defaults and send the boot-up frame. A frame wakes the device (`canTouch`, R501); an SDO answer has its
request's format, the other frames that of x2010:03 (R522). SDO uploads answer values, little-endian; more than four bytes
go in segments of 7, with their toggle. A download that CAN FD may not make changes nothing. Block transfer, a wrong toggle and a
late segment answer their aborts. Frames beyond the output limits are dropped and counted. Bus-off drops what is in
progress; its recovery is an EMCY event. That the first answer of a segmented upload is the size as four bytes, and what a
segment without a transfer answers, are the model's reading (log entry 89). -/
def Obligations.CanPort : Prop :=
  (∀ (node : Byte) (s : State), canUp s = true →
    let u := canTouch s
    let mine := node = 0 ∨ node.toNat = s.mgmt.nodeUse
    let moves := fun (c : Byte → Instr) (n : Nmt) => ∃ t, exec (c node) s = .next t ∧ t.mgmt = { s.mgmt with nmt := n } ∧
      t.out = u.out ∧ t.ports = u.ports ∧ t.baro = u.baro ∧ keepsAll s t
    (mine → moves .nmtStartRemoteNode .operational ∧ moves .nmtStopRemoteNode .stopped ∧ moves .nmtEnterPreOperational .preOperational ∧
      (s.mgmt.nodeId ≠ 0 → ∀ c ∈ ([.nmtResetNode, .nmtResetCommunication] : List (Byte → Instr)),
        ∃ t, exec (c node) s = .next t ∧ t.mgmt.nmt = .preOperational ∧ t.mgmt.hbMs = 1000 ∧ t.mgmt.errs = [] ∧
          t.mgmt.nodeUse = s.mgmt.nodeId ∧ t.mgmt.canUse = s.mgmt.canSet ∧ t.mgmt.sdo = none ∧ t.mgmt.sdoAns = [] ∧
          (frameFits u false = true → t.out = .bootUp (decide (s.mgmt.canSet.getD 2 0 ≠ 0)) s.mgmt.nodeId :: u.out) ∧
          t.ports = u.ports ∧ keepsAll s t)) ∧
    (¬mine → ∀ c ∈ ([.nmtStartRemoteNode, .nmtStopRemoteNode, .nmtEnterPreOperational, .nmtResetNode, .nmtResetCommunication] : List (Byte → Instr)),
      exec (c node) s = .next u)) ∧
  (∀ (idx : SdoIndex) (sub : Byte) (s : State), sdoUp s = true →
    let i := idx.idx.toNat
    let k := sub.toNat
    let u := canTouch s
    let run := fun (c : Instr) (x : Option SdoXfer) (abort : Nat) (bs : List Byte) => ∃ t, exec c s = .next t ∧ t.mgmt.sdo = x ∧
      t.mgmt.sdoAns = s.mgmt.sdoAns ++ [⟨i, k, abort, bs, u.now, none, 0, idx.fd⟩] ∧ t.out = u.out ∧ t.ports = u.ports ∧
      t.baro = u.baro ∧ keepsAll s t
    (∀ v, isCounter i k = false → objRead (setXfer u none) .can i k = .ok v → let bs := valBytes true v
      (bs.length ≤ 4 → run (.sdoInitiateUpload idx sub) none 0 bs) ∧
      (4 < bs.length → run (.sdoInitiateUpload idx sub) (some ⟨i, k, true, bs, false, u.now, idx.fd⟩) 0 (leBytes 4 bs.length))) ∧
    (∀ a, isCounter i k = false → objRead (setXfer u none) .can i k = .error a → run (.sdoInitiateUpload idx sub) none a []) ∧
    (∀ data n, objMissing i k = none → objAcc i k ≠ .const → objAcc i k ≠ .ro → canWritable i k = false →
      run (.sdoInitiateDownload idx sub true n data) none 0x08000021 [] ∧ run (.sdoInitiateDownload idx sub false n data) none 0x08000021 []) ∧
    (∀ data n, i = 0x1017 → k = 0 → data.length = 2 → let v := beNat data.reverse
      (v = 0 ∨ 100 ≤ v → run (.sdoInitiateDownload idx sub true n data) none 0 [] ∧
        ∃ t, exec (.sdoInitiateDownload idx sub true n data) s = .next t ∧ t.mgmt.hbMs = v) ∧
      (v ≠ 0 → v < 100 → run (.sdoInitiateDownload idx sub true n data) none 0x06090030 [])) ∧
    (∀ data n, canWriteFail i k n = none →
      run (.sdoInitiateDownload idx sub false n data) (some ⟨i, k, false, [], false, u.now, idx.fd⟩) 0 []) ∧
    run (.sdoBlockInitiate idx sub) none 0x05040001 []) ∧
  (∀ (q : SdoToggle) (data : List Byte) (s : State) (x : SdoXfer), sdoUp s = true → s.mgmt.sdo = some x →
    let u := canTouch s
    let run := fun (c : Instr) (y : Option SdoXfer) (abort : Nat) (bs : List Byte) => ∃ t, exec c s = .next t ∧ t.mgmt.sdo = y ∧
      t.mgmt.sdoAns = s.mgmt.sdoAns ++ [⟨x.idx, x.sub, abort, bs, u.now, none, 0, q.fd⟩] ∧ t.now = u.now ∧ t.out = u.out ∧
      t.ports = u.ports ∧ keepsAll s t
    (∃ t, exec .sdoSegmentTimeout s = .next t ∧ t.mgmt.sdo = none ∧ t.now = max s.now (x.at' + 1000000000000) ∧
      t.mgmt.sdoAns = s.mgmt.sdoAns ++ [⟨x.idx, x.sub, 0x05040000, [], t.now, none, 0, x.fd⟩] ∧ t.out = s.out ∧
      t.ports = s.ports ∧ keepsAll s t) ∧
    (x.up = true → x.toggle = q.toggle → run (.sdoUploadSegment q)
      (if x.data.length ≤ 7 then none
        else some { x with data := x.data.drop 7, toggle := !x.toggle, at' := u.now, fd := q.fd }) 0 (x.data.take 7)) ∧
    (x.up = true → x.toggle ≠ q.toggle → run (.sdoUploadSegment q) none 0x05030000 []) ∧
    (x.up = false → x.toggle = q.toggle →
      run (.sdoDownloadSegment q data false)
        (some { x with data := x.data ++ data.take 7, toggle := !x.toggle, at' := u.now, fd := q.fd }) 0 [] ∧
      ∃ t a, exec (.sdoDownloadSegment q data true) s = .next t ∧ t.mgmt.sdo = none ∧ t.mgmt.sdoAns = s.mgmt.sdoAns ++ [a] ∧
        a.idx = x.idx ∧ a.sub = x.sub ∧ a.fd = q.fd ∧ (x.idx = 0x1017 → x.sub = 0 → let bs := x.data ++ data.take 7
          bs.length = 2 → 100 ≤ beNat bs.reverse → a.abort = 0 ∧ t.mgmt.hbMs = beNat bs.reverse)) ∧
    (x.up = false → x.toggle ≠ q.toggle → run (.sdoDownloadSegment q data false) none 0x05030000 [])) ∧
  (∀ (s : State) (a : SdoAnswer), sdoUp s = true → (s.mgmt.sdoAns.find? fun a => answerReady s a.w a.hold) = some a →
    ∃ t, exec .sdoResponse s = .next t ∧ t.mgmt.sdoAns = s.mgmt.sdoAns.erase a ∧ t.ports = s.ports ∧ keepsAll s t ∧
      (frameFits s false = true → t.out = .sdo a.fd s.mgmt.nodeUse a.idx a.sub a.abort a.data :: s.out ∧ (a.abort ≠ 0 → counted s t 0x4000 0x12)) ∧
      (frameFits s false = false → t.out = s.out ∧ counted s t 0x4000 0x0C)) ∧
  (∀ s : State, canUp s = true →
    (s.mgmt.hbMs ≠ 0 → let at' := max s.now (s.mgmt.hbAt + s.mgmt.hbMs * 1000000000)
      let code := match s.mgmt.nmt with | .preOperational => 0x7F | .operational => 0x05 | .stopped => 0x04 | .initialising => 0x00
      ∃ t, exec .heartbeat s = .next t ∧ t.now = at' ∧ t.mgmt.hbAt = at' ∧ t.ports = s.ports ∧ keepsAll s t ∧
        (frameFits { s with now := at' } false = true → t.out = .heartbeat (decide (s.mgmt.canUse.getD 2 0 ≠ 0)) s.mgmt.nodeUse code :: s.out) ∧
        (frameFits { s with now := at' } false = false → t.out = s.out ∧ counted s t 0x4000 0x0C)) ∧
    (∃ t, exec .busOff s = .next t ∧ t.mgmt.bus = 2 ∧ t.mgmt.sdo = none ∧ t.mgmt.sdoAns = [] ∧ t.mgmt.nmt = s.mgmt.nmt ∧ keepsAll s t) ∧
    (∀ on, ∃ t, exec (.errorPassive on) s = .next t ∧ t.mgmt = { s.mgmt with bus := b2n on } ∧ t.out = s.out ∧ keepsAll s t)) ∧
  (∀ s : State, alive s = true → s.mgmt.bus = 2 →
    ∃ t, exec .busOffRecovery s = .next t ∧ t.mgmt.bus = 0 ∧ t.mgmt.errs = (0x8140 :: s.mgmt.errs).take 8 ∧ keepsAll s t)

-- the block as a whole

/-- The step is the command at the front of the queue, on the state with the rest of the queue. On an empty queue a core
cycle of 500 ps passes and nothing else changes: the model's choice, log entry 3. -/
def Obligations.StepFront : Prop :=
  (∀ (c : Instr) (r : List Instr) (s : State), s.pending = c :: r → step s = exec c { s with pending := r }) ∧
  (∀ s : State, s.pending = [] → step s = .next { s with now := s.now + 500 })

/-- R41, R66, R80, R320, R366, R386, R412, R416, R418, R443, R498, R503, R509 to R512: what a power-on reset leaves. Memory is
in its canonical form and lists nothing (log entry 8); the model's queue is empty; that PORST_N holds the device, its
supplies in their windows and TESTEN low, is the model's choice (54). -/
def Obligations.ResetState : Prop :=
  let s := State.reset
  Inv s ∧ s.pending = [] ∧ s.phase = .held ∧ s.time.running = false ∧ s.baro.safeOut = false ∧ s.baro.src = 0 ∧ s.baro.boots = 0 ∧
  pcfgRead s 0 = 0x0190000FE0000000 ∧ pcfgRead s 8 = 0x0000000D20000000 ∧ s.pair.cfg = 0x2000000000000000 ∧ s.pair.pserial = 0 ∧
  s.pair.homemap = 0xAAAAAAAAAAAAAAAA ∧ s.pair.ownmap = s.pair.homemap ∧ s.pair.mapply = 0 ∧ pairstatRead s = 0x1000000000000000 ∧
  dladRead s = 0x0007FF0000000000 ∧ lresRead s = 0x0808003203E80000 ∧ frcopyRead s = 0 ∧ s.pwr.ticks = 0 ∧
  (∀ n < 64, cladRead s n = 0x4280000000000000 ∧ ccfgRead s n false = 0 ∧ ccfgRead s n true = 0x3F00000000000000) ∧
  repochRead s = 0 ∧ kfillRead s = 0 ∧ s.prot.jseal = 0x0000020000000000 ∧ s.prot.jsealOn = false ∧ s.prot.fsealOn = false ∧
  (∀ b, keyAt s b = 0) ∧ (∀ n, tget 0 s.prot.actA n = 0) ∧ (∀ n, (getCtx s n).st = .free) ∧ (∀ p, poolOf s p = 0) ∧
  (∀ c, (getCore s c).running = none) ∧ s.sessions = [] ∧ nextSeq s.jrn 0 = 1 ∧ nextSeq s.jrn 1 = 1 ∧
  regRead s .wdog = 0x0A000000 ∧ bstatRead s = 0 ∧ s.mgmt.nodeId = 0 ∧ s.mgmt.hbMs = 1000 ∧
  (∀ i k, tget 0 s.mgmt.ctr (i * 256 + k) = 0)

/-- R88, R509 (log entry 8): every step keeps memory in its canonical form: addresses strictly rising, no byte or tag listed
that an unlisted one would read as. -/
def Obligations.MemoryForm : Prop := ∀ s t : State, Inv s → step s = .next t → Inv t

/-- R444, R453, R454: a device in fail-silent stays silent until a reset: no other command makes it leave, no message leaves
it, and its engines halt. A fault that the always-on Barometer still logs, and chatter of a safety input that it still
counts (R456), may drive ALERT_N low. -/
def Obligations.SilentStays : Prop :=
  ∀ (c : Instr) (s t : State), s.phase = .silent → exec c s = .next t →
    c ≠ .powerOnReset → c ≠ .systemReset → c ≠ .testen true → c ≠ .supplyOutOfWindow 2 →
    let watched := (∃ pin, c = .safetyInputRawTransition pin) ∨ (∃ code kind idx d w i, c = .barometerFault code kind idx d w i) ∨
      (∃ bad, c = .tableScrub bad) ∨ (∃ a e, c = .patrolScrub a e) ∨ ∃ n deg, c = .overTemperature n deg
    t.phase = .silent ∧ t.jrn = s.jrn ∧ t.adm = s.adm ∧
    (t.out = s.out ∨ (watched ∧ s.baro.src = 0 ∧ t.baro.src ≠ 0 ∧ t.out = .alert false :: s.out))
end

