-- ==== Sys2Proof/Laws/Bits.lean ====
section
/-! SUPPORT. Laws of bit fields and byte order. -/

namespace Sys2Proof.Machine

/-- A number in three parts: below, in and above a field of `k` bits at `lo`. -/
theorem split3 (n lo k : Nat) :
    n = n % 2 ^ lo + (n / 2 ^ lo % 2 ^ k) * 2 ^ lo + n / 2 ^ (lo + k) * 2 ^ (lo + k) := by
  have h1 := Nat.mod_add_div n (2 ^ lo)
  have h2 := Nat.mod_add_div (n / 2 ^ lo) (2 ^ k)
  rw [Nat.div_div_eq_div_mul, ← Nat.pow_add] at h2
  have h3 : n / 2 ^ lo * 2 ^ lo =
      (n / 2 ^ lo % 2 ^ k) * 2 ^ lo + n / 2 ^ (lo + k) * 2 ^ (lo + k) := by
    rw [← h2]
    simp only [Nat.add_mul]
    rw [h2, Nat.pow_add, Nat.mul_right_comm, Nat.mul_comm (2 ^ lo) (2 ^ k), Nat.mul_comm (2 ^ k * 2 ^ lo)]
  rw [Nat.mul_comm] at h1
  omega

theorem part_lt (n k : Nat) : n % 2 ^ k < 2 ^ k := Nat.mod_lt _ (Nat.two_pow_pos k)

/-- The number of a word whose field is replaced. -/
theorem toNat_setFld {n : Nat} (w : BitVec n) (hi lo v : Nat) (h : hi < n) (hl : lo ≤ hi) :
    (setFld w hi lo v).toNat = w.toNat % 2 ^ lo + (v % 2 ^ (hi + 1 - lo)) * 2 ^ lo +
      w.toNat / 2 ^ (hi + 1) * 2 ^ (hi + 1) := by
  have hs := split3 w.toNat lo (hi + 1 - lo)
  rw [show lo + (hi + 1 - lo) = hi + 1 by omega] at hs
  unfold setFld fld
  rw [BitVec.toNat_ofNat]
  have he : w.toNat - w.toNat / 2 ^ lo % 2 ^ (hi + 1 - lo) * 2 ^ lo + v % 2 ^ (hi + 1 - lo) * 2 ^ lo =
      w.toNat % 2 ^ lo + v % 2 ^ (hi + 1 - lo) * 2 ^ lo + w.toNat / 2 ^ (hi + 1) * 2 ^ (hi + 1) := by omega
  rw [he]
  apply Nat.mod_eq_of_lt
  have ha := part_lt w.toNat lo
  have hv := part_lt v (hi + 1 - lo)
  have hb : (v % 2 ^ (hi + 1 - lo) + 1) * 2 ^ lo ≤ 2 ^ (hi + 1) := by
    calc _ ≤ 2 ^ (hi + 1 - lo) * 2 ^ lo := Nat.mul_le_mul_right _ hv
      _ = 2 ^ (hi + 1) := by rw [← Nat.pow_add]; congr 1; omega
  have hc : (w.toNat / 2 ^ (hi + 1) + 1) * 2 ^ (hi + 1) ≤ 2 ^ n := by
    have : w.toNat / 2 ^ (hi + 1) < 2 ^ (n - (hi + 1)) := by
      rw [Nat.div_lt_iff_lt_mul (Nat.two_pow_pos _), ← Nat.pow_add]
      rw [show n - (hi + 1) + (hi + 1) = n by omega]
      exact w.isLt
    calc _ ≤ 2 ^ (n - (hi + 1)) * 2 ^ (hi + 1) := Nat.mul_le_mul_right _ this
      _ = 2 ^ n := by rw [← Nat.pow_add]; congr 1; omega
  rw [Nat.add_mul] at hb hc
  omega

/-- The field that was set. -/
theorem fld_setFld_same {n : Nat} (w : BitVec n) (hi lo v : Nat) (h : hi < n) (hl : lo ≤ hi) :
    fld (setFld w hi lo v) hi lo = v % 2 ^ (hi + 1 - lo) := by
  unfold fld
  rw [toNat_setFld w hi lo v h hl]
  have ha := part_lt w.toNat lo
  have e : 2 ^ (hi + 1) = 2 ^ (hi + 1 - lo) * 2 ^ lo := by rw [← Nat.pow_add]; congr 1; omega
  rw [show w.toNat % 2 ^ lo + v % 2 ^ (hi + 1 - lo) * 2 ^ lo + w.toNat / 2 ^ (hi + 1) * 2 ^ (hi + 1) =
    w.toNat % 2 ^ lo + 2 ^ lo * (v % 2 ^ (hi + 1 - lo) + 2 ^ (hi + 1 - lo) * (w.toNat / 2 ^ (hi + 1))) by
      rw [Nat.mul_add, ← Nat.mul_assoc, Nat.mul_comm (2 ^ lo) (2 ^ (hi + 1 - lo)), ← e]
      rw [Nat.mul_comm (2 ^ lo), Nat.mul_comm (2 ^ (hi + 1)) (w.toNat / _)]
      omega]
  rw [Nat.add_mul_div_left _ _ (Nat.two_pow_pos lo), Nat.div_eq_of_lt ha, Nat.zero_add,
    Nat.add_mul_mod_self_left, Nat.mod_mod]

/-- A field above the one that was set. -/
theorem fld_setFld_above {n : Nat} (w : BitVec n) (hi lo v i j : Nat) (h : hi < n) (hl : lo ≤ hi) (hj : hi < j) :
    fld (setFld w hi lo v) i j = fld w i j := by
  unfold fld
  rw [toNat_setFld w hi lo v h hl]
  have ha := part_lt w.toNat lo
  have hv := part_lt v (hi + 1 - lo)
  have hb : (v % 2 ^ (hi + 1 - lo) + 1) * 2 ^ lo ≤ 2 ^ (hi + 1) := by
    calc _ ≤ 2 ^ (hi + 1 - lo) * 2 ^ lo := Nat.mul_le_mul_right _ hv
      _ = 2 ^ (hi + 1) := by rw [← Nat.pow_add]; congr 1; omega
  rw [Nat.add_mul] at hb
  have e : 2 ^ j = 2 ^ (hi + 1) * 2 ^ (j - (hi + 1)) := by rw [← Nat.pow_add]; congr 1; omega
  rw [e, ← Nat.div_div_eq_div_mul, ← Nat.div_div_eq_div_mul]
  rw [Nat.add_mul_div_right _ _ (Nat.two_pow_pos (hi + 1))]
  have hz : (w.toNat % 2 ^ lo + v % 2 ^ (hi + 1 - lo) * 2 ^ lo) / 2 ^ (hi + 1) = 0 :=
    Nat.div_eq_of_lt (by omega)
  rw [hz, Nat.zero_add]

/-- A field below the one that was set. -/
theorem fld_setFld_below {n : Nat} (w : BitVec n) (hi lo v i j : Nat) (h : hi < n) (hl : lo ≤ hi)
    (hij : j ≤ i) (hi' : i < lo) : fld (setFld w hi lo v) i j = fld w i j := by
  unfold fld
  rw [toNat_setFld w hi lo v h hl]
  have low : ∀ a b c : Nat, (a % 2 ^ lo + b * 2 ^ lo + c * 2 ^ (hi + 1)) % 2 ^ lo = a % 2 ^ lo := by
    intro a b c
    have e : 2 ^ (hi + 1) = 2 ^ (hi + 1 - lo) * 2 ^ lo := by rw [← Nat.pow_add]; congr 1; omega
    rw [e, ← Nat.mul_assoc, Nat.add_mul_mod_self_right, Nat.add_mul_mod_self_right, Nat.mod_mod]
  have cut : ∀ x : Nat, x / 2 ^ j % 2 ^ (i + 1 - j) = x % 2 ^ lo / 2 ^ j % 2 ^ (i + 1 - j) := by
    intro x
    have e : 2 ^ lo = 2 ^ j * 2 ^ (lo - j) := by rw [← Nat.pow_add]; congr 1; omega
    rw [e, Nat.mod_mul_right_div_self, Nat.mod_mod_of_dvd]
    exact Nat.pow_dvd_pow 2 (by omega)
  rw [cut, low, ← cut]

@[simp] theorem length_beBytes (n v : Nat) : (beBytes n v).length = n := by
  induction n with
  | zero => rfl
  | succ n ih => simp [beBytes, ih]

@[simp] theorem length_wordBytes (w : Word) : (wordBytes w).length = 8 := length_beBytes 8 _

@[simp] theorem length_zeros (n : Nat) : (zeros n).length = n := List.length_replicate

end Sys2Proof.Machine
end

