-- ==== Sys2Proof/Laws/Store.lean ====
section
/-! SUPPORT. Laws of sparse tables: a read after a write, and the canonical form. -/

namespace Sys2Proof.Machine

variable {α : Type}

@[simp] theorem tget_tset_same (d : α) (t : Tbl α) (i : Nat) (v : α) : tget d (tset t i v) i = v := by
  induction t with
  | nil => simp [tset, tget]
  | cons e r ih =>
    obtain ⟨k, w⟩ := e
    simp only [tset]
    split
    · have h : k ≠ i := by omega
      simp [tget, h, ih]
    · split <;> simp [tget]

theorem tget_tset_ne (d : α) (t : Tbl α) (i j : Nat) (v : α) (h : i ≠ j) :
    tget d (tset t i v) j = tget d t j := by
  induction t with
  | nil => simp [tset, tget, h]
  | cons e r ih =>
    obtain ⟨k, w⟩ := e
    simp only [tset]
    split
    · simp [tget, ih]
    · split
      · next hk => subst hk; simp [tget, h]
      · simp [tget, h]

theorem tget_tset (d : α) (t : Tbl α) (i j : Nat) (v : α) :
    tget d (tset t i v) j = if i = j then v else tget d t j := by
  split
  · next h => subst h; simp
  · next h => exact tget_tset_ne d t i j v h

theorem tget_tdel (d : α) (t : Tbl α) (i j : Nat) :
    tget d (tdel t i) j = if i = j then d else tget d t j := by
  induction t with
  | nil => simp [tdel, tget]
  | cons e r ih =>
    obtain ⟨k, w⟩ := e
    simp only [tdel]
    split
    · next hk =>
      subst hk
      rw [ih]
      by_cases hj : k = j <;> simp [tget, hj]
    · next hk =>
      simp only [tget, ih]
      by_cases hj : i = j
      · subst hj; simp [hk]
      · simp [hj]

/-- A read after a write to a canonical table. -/
theorem tget_tput [DecidableEq α] (d : α) (t : Tbl α) (i j : Nat) (v : α) :
    tget d (tput d t i v) j = if i = j then v else tget d t j := by
  unfold tput
  split
  · next h => subst h; rw [tget_tdel]
  · rw [tget_tset]

theorem tsorted_mono {lo hi : Nat} (h : lo ≤ hi) : ∀ {t : Tbl α}, tsorted hi t = true → tsorted lo t = true
  | [], _ => rfl
  | (k, v) :: r, ht => by
    simp only [tsorted, Bool.and_eq_true, decide_eq_true_eq] at ht ⊢
    exact ⟨by omega, ht.2⟩

theorem tsorted_tdel {lo : Nat} (i : Nat) : ∀ {t : Tbl α}, tsorted lo t = true → tsorted lo (tdel t i) = true
  | [], _ => rfl
  | (k, v) :: r, ht => by
    simp only [tsorted, Bool.and_eq_true, decide_eq_true_eq] at ht
    simp only [tdel]
    split
    · exact tsorted_mono (by omega) (tsorted_tdel i ht.2)
    · simp only [tsorted, Bool.and_eq_true, decide_eq_true_eq]
      exact ⟨ht.1, tsorted_tdel i ht.2⟩

theorem tsorted_tset {lo : Nat} (i : Nat) (v : α) (h : lo ≤ i) :
    ∀ {t : Tbl α}, tsorted lo t = true → tsorted lo (tset t i v) = true
  | [], _ => by simp [tset, tsorted, h]
  | (k, w) :: r, ht => by
    simp only [tsorted, Bool.and_eq_true, decide_eq_true_eq] at ht
    simp only [tset]
    split
    · next hk =>
      simp only [tsorted, Bool.and_eq_true, decide_eq_true_eq]
      exact ⟨ht.1, tsorted_tset i v (by omega) ht.2⟩
    · split
      · next hk =>
        subst hk
        simp only [tsorted, Bool.and_eq_true, decide_eq_true_eq]
        exact ⟨ht.1, ht.2⟩
      · simp only [tsorted, Bool.and_eq_true, decide_eq_true_eq]
        exact ⟨h, by omega, ht.2⟩

theorem tsparse_tdel [DecidableEq α] {d : α} (i : Nat) :
    ∀ {t : Tbl α}, tsparse d t = true → tsparse d (tdel t i) = true
  | [], _ => rfl
  | (k, v) :: r, ht => by
    simp only [tsparse, List.all_cons, Bool.and_eq_true] at ht
    simp only [tdel]
    split
    · exact tsparse_tdel i ht.2
    · simp only [tsparse, List.all_cons, Bool.and_eq_true]
      exact ⟨ht.1, tsparse_tdel i ht.2⟩

theorem tsparse_tset [DecidableEq α] {d : α} (i : Nat) (v : α) (h : v ≠ d) :
    ∀ {t : Tbl α}, tsparse d t = true → tsparse d (tset t i v) = true
  | [], _ => by simp [tset, tsparse, h]
  | (k, w) :: r, ht => by
    have ht' := ht
    simp only [tsparse, List.all_cons, Bool.and_eq_true] at ht
    simp only [tset]
    split
    · simp only [tsparse, List.all_cons, Bool.and_eq_true]
      exact ⟨ht.1, tsparse_tset i v h ht.2⟩
    · split
      · simp only [tsparse, List.all_cons, Bool.and_eq_true]
        exact ⟨by simpa using h, ht.2⟩
      · simp only [tsparse, List.all_cons, Bool.and_eq_true]
        exact ⟨by simpa using h, ht.1, ht.2⟩

/-- A write keeps the canonical form. -/
theorem tcanon_tput [DecidableEq α] {d : α} {t : Tbl α} (i : Nat) (v : α) (h : tcanon d t = true) :
    tcanon d (tput d t i v) = true := by
  simp only [tcanon, Bool.and_eq_true] at h ⊢
  unfold tput
  split
  · exact ⟨tsorted_tdel i h.1, tsparse_tdel i h.2⟩
  · next hv => exact ⟨tsorted_tset i v (Nat.zero_le _) h.1, tsparse_tset i v hv h.2⟩

theorem tsparse_append [DecidableEq α] {d : α} {a b : Tbl α} :
    tsparse d (a ++ b) = (tsparse d a && tsparse d b) := by
  simp [tsparse]

theorem tsparse_filter [DecidableEq α] {d : α} {t : Tbl α} (p : Nat × α → Bool) (h : tsparse d t = true) :
    tsparse d (t.filter p) = true := by
  simp only [tsparse, List.all_eq_true, List.mem_filter] at h ⊢
  exact fun e he => h e he.1

theorem tsorted_filter {lo : Nat} (p : Nat × α → Bool) :
    ∀ {t : Tbl α}, tsorted lo t = true → tsorted lo (t.filter p) = true
  | [], _ => rfl
  | (k, v) :: r, ht => by
    simp only [tsorted, Bool.and_eq_true, decide_eq_true_eq] at ht
    simp only [List.filter]
    split
    · simp only [tsorted, Bool.and_eq_true, decide_eq_true_eq]
      exact ⟨ht.1, tsorted_filter p ht.2⟩
    · exact tsorted_mono (by omega) (tsorted_filter p ht.2)

/-- Two runs of keys on either side of a bound. -/
theorem tsorted_append {b : Tbl α} {mid : Nat} (hb : tsorted mid b = true) :
    ∀ {lo : Nat} {a : Tbl α}, lo ≤ mid → tsorted lo a = true → (∀ e ∈ a, e.1 < mid) → tsorted lo (a ++ b) = true
  | lo, [], hl, _, _ => tsorted_mono hl hb
  | lo, (k, v) :: r, _, ha, hm => by
    simp only [tsorted, Bool.and_eq_true, decide_eq_true_eq] at ha
    have hk : k < mid := hm (k, v) (by simp)
    simp only [List.cons_append, tsorted, Bool.and_eq_true, decide_eq_true_eq]
    exact ⟨ha.1, tsorted_append hb (by omega) ha.2 fun e he => hm e (by simp [he])⟩

/-- The listed keys of a table above a bound. -/
theorem tsorted_above {lo mid : Nat} :
    ∀ {t : Tbl α}, tsorted lo t = true → (∀ e ∈ t, mid ≤ e.1) → tsorted mid t = true
  | [], _, _ => rfl
  | (k, v) :: r, ht, hm => by
    simp only [tsorted, Bool.and_eq_true, decide_eq_true_eq] at ht ⊢
    exact ⟨hm (k, v) (by simp), ht.2⟩

theorem trun_canon [DecidableEq α] (d : α) (lo : Nat) (vs : List α) :
    tsorted lo (trun d lo vs) = true ∧ tsparse d (trun d lo vs) = true ∧
    ∀ e ∈ trun d lo vs, e.1 < lo + vs.length := by
  induction vs generalizing lo with
  | nil => simp [trun, tsorted, tsparse]
  | cons v r ih =>
    obtain ⟨h1, h2, h3⟩ := ih (lo + 1)
    simp only [trun]
    split
    · exact ⟨tsorted_mono (by omega) h1, h2, fun e he => by have := h3 e he; simp; omega⟩
    · next hv =>
      refine ⟨by simp [tsorted, h1], ?_, ?_⟩
      · simp only [tsparse, List.all_cons, Bool.and_eq_true]
        exact ⟨by simpa using hv, h2⟩
      · intro e he
        simp only [List.mem_cons] at he
        rcases he with rfl | he
        · simp
        · have := h3 e he; simp; omega

/-- A run of values keeps the canonical form. -/
theorem tcanon_tblit [DecidableEq α] {d : α} {t : Tbl α} (lo : Nat) (vs : List α) (h : tcanon d t = true) :
    tcanon d (tblit d t lo vs) = true := by
  simp only [tcanon, Bool.and_eq_true] at h ⊢
  obtain ⟨r1, r2, r3⟩ := trun_canon d lo vs
  unfold tblit
  constructor
  · have hc : tsorted (lo + vs.length) (t.filter fun e => decide (lo + vs.length ≤ e.1)) = true :=
      tsorted_above (tsorted_filter _ h.1) fun e he => by simpa using (List.mem_filter.mp he).2
    have hb := tsorted_append hc (Nat.le_add_right lo vs.length) r1 r3
    rw [List.append_assoc]
    exact tsorted_append hb (Nat.zero_le _) (tsorted_filter _ h.1)
      fun e he => by simpa using (List.mem_filter.mp he).2
  · rw [tsparse_append, tsparse_append, tsparse_filter _ h.2, tsparse_filter _ h.2, r2]
    rfl

/-- A filter keeps the canonical form. -/
theorem tcanon_filter [DecidableEq α] {d : α} {t : Tbl α} (p : Nat × α → Bool) (h : tcanon d t = true) :
    tcanon d (t.filter p) = true := by
  simp only [tcanon, Bool.and_eq_true] at h ⊢
  exact ⟨tsorted_filter p h.1, tsparse_filter p h.2⟩

end Sys2Proof.Machine
end

