-- ==== Sys2Proof/Laws/Memory.lean ====
section
/-! SUPPORT. Laws of memory: reads after writes, and the canonical form kept by every memory operation. -/

namespace Sys2Proof.Machine

theorem rdByte_wrByte (m : Memory) (a b : Nat) (v tag : Byte) :
    rdByte (wrByte m a v tag) b = if a = b then v else rdByte m b := tget_tput 0 m.bytes a b v

theorem rdTag_wrByte (m : Memory) (a b : Nat) (v tag : Byte) :
    rdTag (wrByte m a v tag) b = if a / 8 = b / 8 then tag else rdTag m b :=
  tget_tput 0 m.tags (a / 8) (b / 8) tag

/-- A byte outside the run written reads as before. -/
theorem rdByte_wrBytes_outside (m : Memory) (a : Nat) (tag : Byte) (bs : List Byte) (b : Nat)
    (h : b < a ∨ a + bs.length ≤ b) : rdByte (wrBytes m a tag bs) b = rdByte m b := by
  induction bs generalizing m a with
  | nil => rfl
  | cons v r ih =>
    simp only [List.length_cons] at h
    rw [wrBytes, ih _ _ (by omega), rdByte_wrByte, if_neg (by omega)]

/-- Byte `i` of a run written. -/
theorem rdByte_wrBytes_inside (m : Memory) (a : Nat) (tag : Byte) (bs : List Byte) (i : Nat)
    (h : i < bs.length) : rdByte (wrBytes m a tag bs) (a + i) = bs[i] := by
  induction bs generalizing m a i with
  | nil => simp at h
  | cons v r ih =>
    cases i with
    | zero => rw [wrBytes, rdByte_wrBytes_outside _ _ _ _ _ (by omega), rdByte_wrByte]; simp
    | succ i =>
      have hi : i < r.length := by simpa using h
      have := ih (wrByte m a v tag) (a + 1) i hi
      rw [wrBytes, show a + (i + 1) = a + 1 + i by omega, this]
      simp

/-- A run of bytes as it is read. -/
theorem rdBytes_eq (m : Memory) (a : Nat) (bs : List Byte) (h : ∀ i (hi : i < bs.length), rdByte m (a + i) = bs[i]) :
    rdBytes m a bs.length = bs := by
  induction bs generalizing a with
  | nil => rfl
  | cons b r ih =>
    have h0 : rdByte m a = b := h 0 (by simp)
    rw [List.length_cons, rdBytes, h0, ih (a + 1)]
    intro i hi
    have hs : rdByte m (a + (i + 1)) = r[i] := h (i + 1) (by simpa using hi)
    rwa [show a + 1 + i = a + (i + 1) by omega]

/-- The tag of a word that no byte of the run touches. -/
theorem rdTag_wrBytes_outside (m : Memory) (a : Nat) (tag : Byte) (bs : List Byte) (b : Nat)
    (h : ∀ i < bs.length, (a + i) / 8 ≠ b / 8) : rdTag (wrBytes m a tag bs) b = rdTag m b := by
  induction bs generalizing m a with
  | nil => rfl
  | cons v r ih =>
    have h0 := h 0 (by simp)
    rw [wrBytes, ih, rdTag_wrByte, if_neg (by simpa using h0)]
    intro i hi
    have := h (i + 1) (by simpa using hi)
    rwa [show a + (i + 1) = a + 1 + i by omega] at this

theorem wf_wrByte {m : Memory} (a : Nat) (v tag : Byte) (h : m.wf = true) : (wrByte m a v tag).wf = true := by
  simp only [Memory.wf, Bool.and_eq_true] at h ⊢
  exact ⟨tcanon_tput a v h.1, tcanon_tput (a / 8) tag h.2⟩

theorem wf_wrBytes (tag : Byte) (bs : List Byte) :
    ∀ {m : Memory} (a : Nat), m.wf = true → (wrBytes m a tag bs).wf = true := by
  induction bs with
  | nil => exact fun _ h => h
  | cons v r ih => exact fun a h => ih (a + 1) (wf_wrByte a v tag h)

theorem wf_wrWord {m : Memory} (a : Nat) (w : TWord) (h : m.wf = true) : (wrWord m a w).wf = true :=
  wf_wrBytes _ _ _ h

theorem wf_blit {m : Memory} (a : Nat) (tag : Byte) (bs : List Byte) (h : m.wf = true) :
    (blit m a tag bs).wf = true := by
  simp only [Memory.wf, Bool.and_eq_true] at h ⊢
  exact ⟨tcanon_tblit a bs h.1, tcanon_tblit (a / 8) _ h.2⟩

theorem wf_plainWrite {s : State} (w : PWrite) (h : s.mem.wf = true) : (plainWrite s w).mem.wf = true :=
  wf_wrBytes _ _ _ h

theorem wf_applyWrite {s : State} (w : PWrite) (h : s.mem.wf = true) : (applyWrite s w).mem.wf = true := by
  unfold applyWrite
  split
  · exact h
  · split
    · split
      · dsimp only
        split
        · exact wf_plainWrite w h
        · exact h
      · exact h
    · exact wf_plainWrite w h

theorem wf_applyWrites (ws : List PWrite) :
    ∀ {s : State}, s.mem.wf = true → (applyWrites s ws).mem.wf = true := by
  induction ws with
  | nil => exact fun h => h
  | cons w r ih => exact fun h => ih (wf_applyWrite w h)

theorem wf_setHeapWord {s : State} (n i : Nat) (v : Word) (h : s.mem.wf = true) :
    (setHeapWord s n i v).mem.wf = true := wf_wrWord _ _ h

/-- Reset memory is in canonical form. -/
theorem wf_reset : State.reset.mem.wf = true := rfl

end Sys2Proof.Machine
end

