-- ==== Sys2Proof/Laws/State.lean ====
section
/-! SUPPORT. What each update of the state leaves alone: one lemma for each field and update. -/

namespace Sys2Proof.Machine

@[simp] theorem setCore_pending (s : State) (c : Nat) (k : Core) : (setCore s c k).pending = s.pending := rfl
@[simp] theorem setCore_free (s : State) (c : Nat) (k : Core) : (setCore s c k).free = s.free := rfl
@[simp] theorem setCore_now (s : State) (c : Nat) (k : Core) : (setCore s c k).now = s.now := rfl
@[simp] theorem setCore_phase (s : State) (c : Nat) (k : Core) : (setCore s c k).phase = s.phase := rfl
@[simp] theorem setCore_part (s : State) (c : Nat) (k : Core) : (setCore s c k).part = s.part := rfl
@[simp] theorem setCore_time (s : State) (c : Nat) (k : Core) : (setCore s c k).time = s.time := rfl
@[simp] theorem setCore_mem (s : State) (c : Nat) (k : Core) : (setCore s c k).mem = s.mem := rfl
@[simp] theorem setCore_prot (s : State) (c : Nat) (k : Core) : (setCore s c k).prot = s.prot := rfl
@[simp] theorem setCore_ctxs (s : State) (c : Nat) (k : Core) : (setCore s c k).ctxs = s.ctxs := rfl
@[simp] theorem setCore_cells (s : State) (c : Nat) (k : Core) : (setCore s c k).cells = s.cells := rfl
@[simp] theorem setCore_adm (s : State) (c : Nat) (k : Core) : (setCore s c k).adm = s.adm := rfl
@[simp] theorem setCore_jrn (s : State) (c : Nat) (k : Core) : (setCore s c k).jrn = s.jrn := rfl
@[simp] theorem setCore_ports (s : State) (c : Nat) (k : Core) : (setCore s c k).ports = s.ports := rfl
@[simp] theorem setCore_sessions (s : State) (c : Nat) (k : Core) : (setCore s c k).sessions = s.sessions := rfl
@[simp] theorem setCore_nextSession (s : State) (c : Nat) (k : Core) : (setCore s c k).nextSession = s.nextSession := rfl
@[simp] theorem setCore_pair (s : State) (c : Nat) (k : Core) : (setCore s c k).pair = s.pair := rfl
@[simp] theorem setCore_baro (s : State) (c : Nat) (k : Core) : (setCore s c k).baro = s.baro := rfl
@[simp] theorem setCore_boot (s : State) (c : Nat) (k : Core) : (setCore s c k).boot = s.boot := rfl
@[simp] theorem setCore_pwr (s : State) (c : Nat) (k : Core) : (setCore s c k).pwr = s.pwr := rfl
@[simp] theorem setCore_mgmt (s : State) (c : Nat) (k : Core) : (setCore s c k).mgmt = s.mgmt := rfl
@[simp] theorem setCore_mesh (s : State) (c : Nat) (k : Core) : (setCore s c k).mesh = s.mesh := rfl
@[simp] theorem setCore_out (s : State) (c : Nat) (k : Core) : (setCore s c k).out = s.out := rfl

@[simp] theorem setCtx_pending (s : State) (n : Nat) (x : Ctx) : (setCtx s n x).pending = s.pending := rfl
@[simp] theorem setCtx_free (s : State) (n : Nat) (x : Ctx) : (setCtx s n x).free = s.free := rfl
@[simp] theorem setCtx_now (s : State) (n : Nat) (x : Ctx) : (setCtx s n x).now = s.now := rfl
@[simp] theorem setCtx_phase (s : State) (n : Nat) (x : Ctx) : (setCtx s n x).phase = s.phase := rfl
@[simp] theorem setCtx_part (s : State) (n : Nat) (x : Ctx) : (setCtx s n x).part = s.part := rfl
@[simp] theorem setCtx_time (s : State) (n : Nat) (x : Ctx) : (setCtx s n x).time = s.time := rfl
@[simp] theorem setCtx_mem (s : State) (n : Nat) (x : Ctx) : (setCtx s n x).mem = s.mem := rfl
@[simp] theorem setCtx_prot (s : State) (n : Nat) (x : Ctx) : (setCtx s n x).prot = s.prot := rfl
@[simp] theorem setCtx_cores (s : State) (n : Nat) (x : Ctx) : (setCtx s n x).cores = s.cores := rfl
@[simp] theorem setCtx_cells (s : State) (n : Nat) (x : Ctx) : (setCtx s n x).cells = s.cells := rfl
@[simp] theorem setCtx_adm (s : State) (n : Nat) (x : Ctx) : (setCtx s n x).adm = s.adm := rfl
@[simp] theorem setCtx_jrn (s : State) (n : Nat) (x : Ctx) : (setCtx s n x).jrn = s.jrn := rfl
@[simp] theorem setCtx_ports (s : State) (n : Nat) (x : Ctx) : (setCtx s n x).ports = s.ports := rfl
@[simp] theorem setCtx_sessions (s : State) (n : Nat) (x : Ctx) : (setCtx s n x).sessions = s.sessions := rfl
@[simp] theorem setCtx_nextSession (s : State) (n : Nat) (x : Ctx) : (setCtx s n x).nextSession = s.nextSession := rfl
@[simp] theorem setCtx_pair (s : State) (n : Nat) (x : Ctx) : (setCtx s n x).pair = s.pair := rfl
@[simp] theorem setCtx_baro (s : State) (n : Nat) (x : Ctx) : (setCtx s n x).baro = s.baro := rfl
@[simp] theorem setCtx_boot (s : State) (n : Nat) (x : Ctx) : (setCtx s n x).boot = s.boot := rfl
@[simp] theorem setCtx_pwr (s : State) (n : Nat) (x : Ctx) : (setCtx s n x).pwr = s.pwr := rfl
@[simp] theorem setCtx_mgmt (s : State) (n : Nat) (x : Ctx) : (setCtx s n x).mgmt = s.mgmt := rfl
@[simp] theorem setCtx_mesh (s : State) (n : Nat) (x : Ctx) : (setCtx s n x).mesh = s.mesh := rfl
@[simp] theorem setCtx_out (s : State) (n : Nat) (x : Ctx) : (setCtx s n x).out = s.out := rfl

@[simp] theorem setPort_pending (s : State) (p : Nat) (x : Port) : (setPort s p x).pending = s.pending := rfl
@[simp] theorem setPort_free (s : State) (p : Nat) (x : Port) : (setPort s p x).free = s.free := rfl
@[simp] theorem setPort_now (s : State) (p : Nat) (x : Port) : (setPort s p x).now = s.now := rfl
@[simp] theorem setPort_phase (s : State) (p : Nat) (x : Port) : (setPort s p x).phase = s.phase := rfl
@[simp] theorem setPort_part (s : State) (p : Nat) (x : Port) : (setPort s p x).part = s.part := rfl
@[simp] theorem setPort_time (s : State) (p : Nat) (x : Port) : (setPort s p x).time = s.time := rfl
@[simp] theorem setPort_mem (s : State) (p : Nat) (x : Port) : (setPort s p x).mem = s.mem := rfl
@[simp] theorem setPort_prot (s : State) (p : Nat) (x : Port) : (setPort s p x).prot = s.prot := rfl
@[simp] theorem setPort_cores (s : State) (p : Nat) (x : Port) : (setPort s p x).cores = s.cores := rfl
@[simp] theorem setPort_ctxs (s : State) (p : Nat) (x : Port) : (setPort s p x).ctxs = s.ctxs := rfl
@[simp] theorem setPort_cells (s : State) (p : Nat) (x : Port) : (setPort s p x).cells = s.cells := rfl
@[simp] theorem setPort_adm (s : State) (p : Nat) (x : Port) : (setPort s p x).adm = s.adm := rfl
@[simp] theorem setPort_jrn (s : State) (p : Nat) (x : Port) : (setPort s p x).jrn = s.jrn := rfl
@[simp] theorem setPort_sessions (s : State) (p : Nat) (x : Port) : (setPort s p x).sessions = s.sessions := rfl
@[simp] theorem setPort_nextSession (s : State) (p : Nat) (x : Port) : (setPort s p x).nextSession = s.nextSession := rfl
@[simp] theorem setPort_pair (s : State) (p : Nat) (x : Port) : (setPort s p x).pair = s.pair := rfl
@[simp] theorem setPort_baro (s : State) (p : Nat) (x : Port) : (setPort s p x).baro = s.baro := rfl
@[simp] theorem setPort_boot (s : State) (p : Nat) (x : Port) : (setPort s p x).boot = s.boot := rfl
@[simp] theorem setPort_pwr (s : State) (p : Nat) (x : Port) : (setPort s p x).pwr = s.pwr := rfl
@[simp] theorem setPort_mgmt (s : State) (p : Nat) (x : Port) : (setPort s p x).mgmt = s.mgmt := rfl
@[simp] theorem setPort_mesh (s : State) (p : Nat) (x : Port) : (setPort s p x).mesh = s.mesh := rfl
@[simp] theorem setPort_out (s : State) (p : Nat) (x : Port) : (setPort s p x).out = s.out := rfl

@[simp] theorem setCell_pending (s : State) (n : Nat) (x : Cell) : (setCell s n x).pending = s.pending := rfl
@[simp] theorem setCell_free (s : State) (n : Nat) (x : Cell) : (setCell s n x).free = s.free := rfl
@[simp] theorem setCell_now (s : State) (n : Nat) (x : Cell) : (setCell s n x).now = s.now := rfl
@[simp] theorem setCell_phase (s : State) (n : Nat) (x : Cell) : (setCell s n x).phase = s.phase := rfl
@[simp] theorem setCell_part (s : State) (n : Nat) (x : Cell) : (setCell s n x).part = s.part := rfl
@[simp] theorem setCell_time (s : State) (n : Nat) (x : Cell) : (setCell s n x).time = s.time := rfl
@[simp] theorem setCell_mem (s : State) (n : Nat) (x : Cell) : (setCell s n x).mem = s.mem := rfl
@[simp] theorem setCell_prot (s : State) (n : Nat) (x : Cell) : (setCell s n x).prot = s.prot := rfl
@[simp] theorem setCell_cores (s : State) (n : Nat) (x : Cell) : (setCell s n x).cores = s.cores := rfl
@[simp] theorem setCell_ctxs (s : State) (n : Nat) (x : Cell) : (setCell s n x).ctxs = s.ctxs := rfl
@[simp] theorem setCell_adm (s : State) (n : Nat) (x : Cell) : (setCell s n x).adm = s.adm := rfl
@[simp] theorem setCell_jrn (s : State) (n : Nat) (x : Cell) : (setCell s n x).jrn = s.jrn := rfl
@[simp] theorem setCell_ports (s : State) (n : Nat) (x : Cell) : (setCell s n x).ports = s.ports := rfl
@[simp] theorem setCell_sessions (s : State) (n : Nat) (x : Cell) : (setCell s n x).sessions = s.sessions := rfl
@[simp] theorem setCell_nextSession (s : State) (n : Nat) (x : Cell) : (setCell s n x).nextSession = s.nextSession := rfl
@[simp] theorem setCell_pair (s : State) (n : Nat) (x : Cell) : (setCell s n x).pair = s.pair := rfl
@[simp] theorem setCell_baro (s : State) (n : Nat) (x : Cell) : (setCell s n x).baro = s.baro := rfl
@[simp] theorem setCell_boot (s : State) (n : Nat) (x : Cell) : (setCell s n x).boot = s.boot := rfl
@[simp] theorem setCell_pwr (s : State) (n : Nat) (x : Cell) : (setCell s n x).pwr = s.pwr := rfl
@[simp] theorem setCell_mgmt (s : State) (n : Nat) (x : Cell) : (setCell s n x).mgmt = s.mgmt := rfl
@[simp] theorem setCell_mesh (s : State) (n : Nat) (x : Cell) : (setCell s n x).mesh = s.mesh := rfl
@[simp] theorem setCell_out (s : State) (n : Nat) (x : Cell) : (setCell s n x).out = s.out := rfl

@[simp] theorem emit_pending (s : State) (e : Emit) : (emit s e).pending = s.pending := rfl
@[simp] theorem emit_free (s : State) (e : Emit) : (emit s e).free = s.free := rfl
@[simp] theorem emit_now (s : State) (e : Emit) : (emit s e).now = s.now := rfl
@[simp] theorem emit_phase (s : State) (e : Emit) : (emit s e).phase = s.phase := rfl
@[simp] theorem emit_part (s : State) (e : Emit) : (emit s e).part = s.part := rfl
@[simp] theorem emit_time (s : State) (e : Emit) : (emit s e).time = s.time := rfl
@[simp] theorem emit_mem (s : State) (e : Emit) : (emit s e).mem = s.mem := rfl
@[simp] theorem emit_prot (s : State) (e : Emit) : (emit s e).prot = s.prot := rfl
@[simp] theorem emit_cores (s : State) (e : Emit) : (emit s e).cores = s.cores := rfl
@[simp] theorem emit_ctxs (s : State) (e : Emit) : (emit s e).ctxs = s.ctxs := rfl
@[simp] theorem emit_cells (s : State) (e : Emit) : (emit s e).cells = s.cells := rfl
@[simp] theorem emit_adm (s : State) (e : Emit) : (emit s e).adm = s.adm := rfl
@[simp] theorem emit_jrn (s : State) (e : Emit) : (emit s e).jrn = s.jrn := rfl
@[simp] theorem emit_ports (s : State) (e : Emit) : (emit s e).ports = s.ports := rfl
@[simp] theorem emit_sessions (s : State) (e : Emit) : (emit s e).sessions = s.sessions := rfl
@[simp] theorem emit_nextSession (s : State) (e : Emit) : (emit s e).nextSession = s.nextSession := rfl
@[simp] theorem emit_pair (s : State) (e : Emit) : (emit s e).pair = s.pair := rfl
@[simp] theorem emit_baro (s : State) (e : Emit) : (emit s e).baro = s.baro := rfl
@[simp] theorem emit_boot (s : State) (e : Emit) : (emit s e).boot = s.boot := rfl
@[simp] theorem emit_pwr (s : State) (e : Emit) : (emit s e).pwr = s.pwr := rfl
@[simp] theorem emit_mgmt (s : State) (e : Emit) : (emit s e).mgmt = s.mgmt := rfl
@[simp] theorem emit_mesh (s : State) (e : Emit) : (emit s e).mesh = s.mesh := rfl

@[simp] theorem bump_pending (s : State) (i j : Nat) : (bump s i j).pending = s.pending := rfl
@[simp] theorem bump_free (s : State) (i j : Nat) : (bump s i j).free = s.free := rfl
@[simp] theorem bump_now (s : State) (i j : Nat) : (bump s i j).now = s.now := rfl
@[simp] theorem bump_phase (s : State) (i j : Nat) : (bump s i j).phase = s.phase := rfl
@[simp] theorem bump_part (s : State) (i j : Nat) : (bump s i j).part = s.part := rfl
@[simp] theorem bump_time (s : State) (i j : Nat) : (bump s i j).time = s.time := rfl
@[simp] theorem bump_mem (s : State) (i j : Nat) : (bump s i j).mem = s.mem := rfl
@[simp] theorem bump_prot (s : State) (i j : Nat) : (bump s i j).prot = s.prot := rfl
@[simp] theorem bump_cores (s : State) (i j : Nat) : (bump s i j).cores = s.cores := rfl
@[simp] theorem bump_ctxs (s : State) (i j : Nat) : (bump s i j).ctxs = s.ctxs := rfl
@[simp] theorem bump_cells (s : State) (i j : Nat) : (bump s i j).cells = s.cells := rfl
@[simp] theorem bump_adm (s : State) (i j : Nat) : (bump s i j).adm = s.adm := rfl
@[simp] theorem bump_jrn (s : State) (i j : Nat) : (bump s i j).jrn = s.jrn := rfl
@[simp] theorem bump_ports (s : State) (i j : Nat) : (bump s i j).ports = s.ports := rfl
@[simp] theorem bump_sessions (s : State) (i j : Nat) : (bump s i j).sessions = s.sessions := rfl
@[simp] theorem bump_nextSession (s : State) (i j : Nat) : (bump s i j).nextSession = s.nextSession := rfl
@[simp] theorem bump_pair (s : State) (i j : Nat) : (bump s i j).pair = s.pair := rfl
@[simp] theorem bump_baro (s : State) (i j : Nat) : (bump s i j).baro = s.baro := rfl
@[simp] theorem bump_boot (s : State) (i j : Nat) : (bump s i j).boot = s.boot := rfl
@[simp] theorem bump_pwr (s : State) (i j : Nat) : (bump s i j).pwr = s.pwr := rfl
@[simp] theorem bump_mesh (s : State) (i j : Nat) : (bump s i j).mesh = s.mesh := rfl
@[simp] theorem bump_out (s : State) (i j : Nat) : (bump s i j).out = s.out := rfl

@[simp] theorem plainWrite_pending (s : State) (w : PWrite) : (plainWrite s w).pending = s.pending := rfl
@[simp] theorem plainWrite_free (s : State) (w : PWrite) : (plainWrite s w).free = s.free := rfl
@[simp] theorem plainWrite_now (s : State) (w : PWrite) : (plainWrite s w).now = s.now := rfl
@[simp] theorem plainWrite_phase (s : State) (w : PWrite) : (plainWrite s w).phase = s.phase := rfl
@[simp] theorem plainWrite_part (s : State) (w : PWrite) : (plainWrite s w).part = s.part := rfl
@[simp] theorem plainWrite_time (s : State) (w : PWrite) : (plainWrite s w).time = s.time := rfl
@[simp] theorem plainWrite_prot (s : State) (w : PWrite) : (plainWrite s w).prot = s.prot := rfl
@[simp] theorem plainWrite_cores (s : State) (w : PWrite) : (plainWrite s w).cores = s.cores := rfl
@[simp] theorem plainWrite_ctxs (s : State) (w : PWrite) : (plainWrite s w).ctxs = s.ctxs := rfl
@[simp] theorem plainWrite_cells (s : State) (w : PWrite) : (plainWrite s w).cells = s.cells := rfl
@[simp] theorem plainWrite_adm (s : State) (w : PWrite) : (plainWrite s w).adm = s.adm := rfl
@[simp] theorem plainWrite_jrn (s : State) (w : PWrite) : (plainWrite s w).jrn = s.jrn := rfl
@[simp] theorem plainWrite_ports (s : State) (w : PWrite) : (plainWrite s w).ports = s.ports := rfl
@[simp] theorem plainWrite_sessions (s : State) (w : PWrite) : (plainWrite s w).sessions = s.sessions := rfl
@[simp] theorem plainWrite_nextSession (s : State) (w : PWrite) : (plainWrite s w).nextSession = s.nextSession := rfl
@[simp] theorem plainWrite_pair (s : State) (w : PWrite) : (plainWrite s w).pair = s.pair := rfl
@[simp] theorem plainWrite_baro (s : State) (w : PWrite) : (plainWrite s w).baro = s.baro := rfl
@[simp] theorem plainWrite_boot (s : State) (w : PWrite) : (plainWrite s w).boot = s.boot := rfl
@[simp] theorem plainWrite_pwr (s : State) (w : PWrite) : (plainWrite s w).pwr = s.pwr := rfl
@[simp] theorem plainWrite_mgmt (s : State) (w : PWrite) : (plainWrite s w).mgmt = s.mgmt := rfl
@[simp] theorem plainWrite_mesh (s : State) (w : PWrite) : (plainWrite s w).mesh = s.mesh := rfl
@[simp] theorem plainWrite_out (s : State) (w : PWrite) : (plainWrite s w).out = s.out := rfl

@[simp] theorem Bank.setCc_g (b : Bank) (v : Nat) : (b.setCc v).g = b.g := by cases b; rfl
@[simp] theorem Bank.setCc_a (b : Bank) (v : Nat) : (b.setCc v).a = b.a := by cases b; rfl
@[simp] theorem Bank.setCc_ct (b : Bank) (v : Nat) : (b.setCc v).ct = b.ct := by cases b; rfl
@[simp] theorem Bank.setCc_xb (b : Bank) (v : Nat) : (b.setCc v).xb = b.xb := by cases b; rfl
@[simp] theorem Bank.setCc_te (b : Bank) (v : Nat) : (b.setCc v).te = b.te := by cases b; rfl
@[simp] theorem Bank.setCc_fl (b : Bank) (v : Nat) : (b.setCc v).fl = b.fl := by cases b; rfl
@[simp] theorem Bank.setCc_xa (b : Bank) (v : Nat) : (b.setCc v).xa = b.xa := by cases b; rfl
@[simp] theorem Bank.setCc_xc (b : Bank) (v : Nat) : (b.setCc v).xc = b.xc := by cases b; rfl
@[simp] theorem Bank.setCc_ia (b : Bank) (v : Nat) : (b.setCc v).ia = b.ia := by cases b; rfl
@[simp] theorem Bank.setCc_pend (b : Bank) (v : Nat) : (b.setCc v).pend = b.pend := by cases b; rfl

@[simp] theorem Bank.setSig_g (b : Bank) (v : Bool) : (b.setSig v).g = b.g := by cases b; rfl
@[simp] theorem Bank.setSig_a (b : Bank) (v : Bool) : (b.setSig v).a = b.a := by cases b; rfl
@[simp] theorem Bank.setSig_ct (b : Bank) (v : Bool) : (b.setSig v).ct = b.ct := by cases b; rfl
@[simp] theorem Bank.setSig_xb (b : Bank) (v : Bool) : (b.setSig v).xb = b.xb := by cases b; rfl
@[simp] theorem Bank.setSig_te (b : Bank) (v : Bool) : (b.setSig v).te = b.te := by cases b; rfl
@[simp] theorem Bank.setSig_fl (b : Bank) (v : Bool) : (b.setSig v).fl = b.fl := by cases b; rfl
@[simp] theorem Bank.setSig_xa (b : Bank) (v : Bool) : (b.setSig v).xa = b.xa := by cases b; rfl
@[simp] theorem Bank.setSig_xc (b : Bank) (v : Bool) : (b.setSig v).xc = b.xc := by cases b; rfl
@[simp] theorem Bank.setSig_ia (b : Bank) (v : Bool) : (b.setSig v).ia = b.ia := by cases b; rfl
@[simp] theorem Bank.setSig_pend (b : Bank) (v : Bool) : (b.setSig v).pend = b.pend := by cases b; rfl

@[simp] theorem Bank.setUip_g (b : Bank) (v : Bool) : (b.setUip v).g = b.g := by cases b; rfl
@[simp] theorem Bank.setUip_a (b : Bank) (v : Bool) : (b.setUip v).a = b.a := by cases b; rfl
@[simp] theorem Bank.setUip_ct (b : Bank) (v : Bool) : (b.setUip v).ct = b.ct := by cases b; rfl
@[simp] theorem Bank.setUip_xb (b : Bank) (v : Bool) : (b.setUip v).xb = b.xb := by cases b; rfl
@[simp] theorem Bank.setUip_te (b : Bank) (v : Bool) : (b.setUip v).te = b.te := by cases b; rfl
@[simp] theorem Bank.setUip_fl (b : Bank) (v : Bool) : (b.setUip v).fl = b.fl := by cases b; rfl
@[simp] theorem Bank.setUip_xa (b : Bank) (v : Bool) : (b.setUip v).xa = b.xa := by cases b; rfl
@[simp] theorem Bank.setUip_xc (b : Bank) (v : Bool) : (b.setUip v).xc = b.xc := by cases b; rfl
@[simp] theorem Bank.setUip_ia (b : Bank) (v : Bool) : (b.setUip v).ia = b.ia := by cases b; rfl
@[simp] theorem Bank.setUip_pend (b : Bank) (v : Bool) : (b.setUip v).pend = b.pend := by cases b; rfl

@[simp] theorem Bank.setOvr_g (b : Bank) : (b.setOvr).g = b.g := by cases b; rfl
@[simp] theorem Bank.setOvr_a (b : Bank) : (b.setOvr).a = b.a := by cases b; rfl
@[simp] theorem Bank.setOvr_ct (b : Bank) : (b.setOvr).ct = b.ct := by cases b; rfl
@[simp] theorem Bank.setOvr_xb (b : Bank) : (b.setOvr).xb = b.xb := by cases b; rfl
@[simp] theorem Bank.setOvr_te (b : Bank) : (b.setOvr).te = b.te := by cases b; rfl
@[simp] theorem Bank.setOvr_fl (b : Bank) : (b.setOvr).fl = b.fl := by cases b; rfl
@[simp] theorem Bank.setOvr_xa (b : Bank) : (b.setOvr).xa = b.xa := by cases b; rfl
@[simp] theorem Bank.setOvr_xc (b : Bank) : (b.setOvr).xc = b.xc := by cases b; rfl
@[simp] theorem Bank.setOvr_ia (b : Bank) : (b.setOvr).ia = b.ia := by cases b; rfl
@[simp] theorem Bank.setOvr_pend (b : Bank) : (b.setOvr).pend = b.pend := by cases b; rfl

@[simp] theorem Bank.setMode_g (b : Bank) (v : Bool) : (b.setMode v).g = b.g := by cases b; rfl
@[simp] theorem Bank.setMode_a (b : Bank) (v : Bool) : (b.setMode v).a = b.a := by cases b; rfl
@[simp] theorem Bank.setMode_ct (b : Bank) (v : Bool) : (b.setMode v).ct = b.ct := by cases b; rfl
@[simp] theorem Bank.setMode_xb (b : Bank) (v : Bool) : (b.setMode v).xb = b.xb := by cases b; rfl
@[simp] theorem Bank.setMode_te (b : Bank) (v : Bool) : (b.setMode v).te = b.te := by cases b; rfl
@[simp] theorem Bank.setMode_fl (b : Bank) (v : Bool) : (b.setMode v).fl = b.fl := by cases b; rfl
@[simp] theorem Bank.setMode_xa (b : Bank) (v : Bool) : (b.setMode v).xa = b.xa := by cases b; rfl
@[simp] theorem Bank.setMode_xc (b : Bank) (v : Bool) : (b.setMode v).xc = b.xc := by cases b; rfl
@[simp] theorem Bank.setMode_ia (b : Bank) (v : Bool) : (b.setMode v).ia = b.ia := by cases b; rfl
@[simp] theorem Bank.setMode_pend (b : Bank) (v : Bool) : (b.setMode v).pend = b.pend := by cases b; rfl

@[simp] theorem setCtr_pending (s : State) (k v0 v : Nat) : (setCtr s k v0 v).pending = s.pending := rfl
@[simp] theorem setCtr_free (s : State) (k v0 v : Nat) : (setCtr s k v0 v).free = s.free := rfl
@[simp] theorem setCtr_now (s : State) (k v0 v : Nat) : (setCtr s k v0 v).now = s.now := rfl
@[simp] theorem setCtr_phase (s : State) (k v0 v : Nat) : (setCtr s k v0 v).phase = s.phase := rfl
@[simp] theorem setCtr_part (s : State) (k v0 v : Nat) : (setCtr s k v0 v).part = s.part := rfl
@[simp] theorem setCtr_time (s : State) (k v0 v : Nat) : (setCtr s k v0 v).time = s.time := rfl
@[simp] theorem setCtr_mem (s : State) (k v0 v : Nat) : (setCtr s k v0 v).mem = s.mem := rfl
@[simp] theorem setCtr_prot (s : State) (k v0 v : Nat) : (setCtr s k v0 v).prot = s.prot := rfl
@[simp] theorem setCtr_ctxs (s : State) (k v0 v : Nat) : (setCtr s k v0 v).ctxs = s.ctxs := rfl
@[simp] theorem setCtr_cores (s : State) (k v0 v : Nat) : (setCtr s k v0 v).cores = s.cores := rfl
@[simp] theorem setCtr_cells (s : State) (k v0 v : Nat) : (setCtr s k v0 v).cells = s.cells := rfl
@[simp] theorem setCtr_adm (s : State) (k v0 v : Nat) : (setCtr s k v0 v).adm = s.adm := rfl
@[simp] theorem setCtr_jrn (s : State) (k v0 v : Nat) : (setCtr s k v0 v).jrn = s.jrn := rfl
@[simp] theorem setCtr_ports (s : State) (k v0 v : Nat) : (setCtr s k v0 v).ports = s.ports := rfl
@[simp] theorem setCtr_sessions (s : State) (k v0 v : Nat) : (setCtr s k v0 v).sessions = s.sessions := rfl
@[simp] theorem setCtr_nextSession (s : State) (k v0 v : Nat) : (setCtr s k v0 v).nextSession = s.nextSession := rfl
@[simp] theorem setCtr_pair (s : State) (k v0 v : Nat) : (setCtr s k v0 v).pair = s.pair := rfl
@[simp] theorem setCtr_baro (s : State) (k v0 v : Nat) : (setCtr s k v0 v).baro = s.baro := rfl
@[simp] theorem setCtr_boot (s : State) (k v0 v : Nat) : (setCtr s k v0 v).boot = s.boot := rfl
@[simp] theorem setCtr_pwr (s : State) (k v0 v : Nat) : (setCtr s k v0 v).pwr = s.pwr := rfl
@[simp] theorem setCtr_mesh (s : State) (k v0 v : Nat) : (setCtr s k v0 v).mesh = s.mesh := rfl
@[simp] theorem setCtr_out (s : State) (k v0 v : Nat) : (setCtr s k v0 v).out = s.out := rfl

end Sys2Proof.Machine
end

