-- ==== Sys2Proof/Laws/Core.lean ====
section
/-! SUPPORT. Laws of cores and contexts: reads after writes, the bank in use, registers, and the one run of
an instruction. -/

namespace Sys2Proof.Machine

@[simp] theorem getCore_setCore (s : State) (c d : Nat) (k : Core) :
    getCore (setCore s c k) d = if c = d then k else getCore s d := tget_tset ..

@[simp] theorem getCtx_setCtx (s : State) (n m : Nat) (x : Ctx) :
    getCtx (setCtx s n x) m = if n = m then x else getCtx s m := tget_tset ..

@[simp] theorem getCore_setCtx (s : State) (c n : Nat) (x : Ctx) : getCore (setCtx s n x) c = getCore s c := rfl
@[simp] theorem getCtx_setCore (s : State) (c n : Nat) (k : Core) : getCtx (setCore s c k) n = getCtx s n := rfl
@[simp] theorem getCore_setCell (s : State) (c n : Nat) (x : Cell) : getCore (setCell s n x) c = getCore s c := rfl
@[simp] theorem getCtx_setCell (s : State) (m n : Nat) (x : Cell) : getCtx (setCell s n x) m = getCtx s m := rfl
@[simp] theorem getCore_setPort (s : State) (c p : Nat) (x : Port) : getCore (setPort s p x) c = getCore s c := rfl
@[simp] theorem getCtx_setPort (s : State) (m p : Nat) (x : Port) : getCtx (setPort s p x) m = getCtx s m := rfl
@[simp] theorem getCore_emit (s : State) (c : Nat) (e : Emit) : getCore (emit s e) c = getCore s c := rfl
@[simp] theorem getCtx_emit (s : State) (n : Nat) (e : Emit) : getCtx (emit s e) n = getCtx s n := rfl
@[simp] theorem getCore_bump (s : State) (c i j : Nat) : getCore (bump s i j) c = getCore s c := rfl
@[simp] theorem getCtx_bump (s : State) (n i j : Nat) : getCtx (bump s i j) n = getCtx s n := rfl

@[simp] theorem getPort_setPort (s : State) (p q : Nat) (x : Port) :
    getPort (setPort s p x) q = if p = q then x else getPort s q := tget_tset ..

@[simp] theorem getCell_setCell (s : State) (n m : Nat) (x : Cell) :
    getCell (setCell s n x) m = if n = m then x else getCell s m := by
  by_cases h : n = m
  · subst h; simp [getCell, setCell]
  · simp [getCell, setCell, h, tget_tset_ne _ _ _ _ _ h]

-- levels and banks

@[simp] theorem Ctx.level_setBankOf (x : Ctx) (l : Nat) (b : Bank) : (x.setBankOf l b).level = x.level := by
  unfold Ctx.setBankOf
  split
  · rfl
  · split
    · cases h : x.exc <;> simp [Ctx.level, h]
    · cases h : x.exc <;> simp [Ctx.level, h]

/-- The bank in use can be replaced and read back. -/
theorem Ctx.bankOf_setBankOf (x : Ctx) (b : Bank) : (x.setBankOf x.level b).bankOf x.level = b := by
  unfold Ctx.level
  split
  · next e he =>
    by_cases hd : e.depth < x.gates.length
    · have h2 : x.gates.length ≠ 0 := by omega
      simp [hd, Ctx.bankOf, Ctx.setBankOf, h2]
      rw [List.getElem?_eq_getElem (by omega)]
      simp
    · simp [hd, Ctx.bankOf, Ctx.setBankOf, he]
  · next he =>
    by_cases hg : x.gates = []
    · simp [hg, Ctx.bankOf, Ctx.setBankOf]
    · have h2 : x.gates.length ≠ 0 := by simpa using hg
      simp [hg, Ctx.bankOf, Ctx.setBankOf]
      rw [List.getElem?_eq_getElem (by omega)]
      simp

@[simp] theorem running_setBank (s : State) (c : Nat) (b : Bank) :
    (getCore (setBank s c b) c).running = (getCore s c).running := by
  unfold setBank
  split
  · simp
  · cases h : (getCore s c).running <;> simp [h]

theorem curBank_setBank (s : State) (c : Nat) (b : Bank) : curBank (setBank s c b) c = b := by
  unfold curBank
  by_cases hc : 256 ≤ c
  · simp [hc, setBank]
  · cases h : (getCore s c).running <;> simp [hc, h, setBank, Ctx.bankOf_setBankOf]

/-- A context whose level and banks stay leaves the bank in use as it was. -/
theorem curBank_setCtx {s : State} {n : Nat} {x : Ctx} (c : Nat) (hl : x.level = (getCtx s n).level)
    (hb : ∀ l, x.bankOf l = (getCtx s n).bankOf l) : curBank (setCtx s n x) c = curBank s c := by
  unfold curBank
  rw [getCore_setCtx]
  split
  · rfl
  · split
    · rw [getCtx_setCtx]
      split
      · next h => subst h; rw [hl, hb]
      · rfl
    · rfl

/-- Two banks that differ at most in the instruction address, PS.OVR and PS.UIP. -/
def Bank.alike (a b : Bank) : Prop :=
  a.g = b.g ∧ a.a = b.a ∧ a.ct = b.ct ∧ a.xb = b.xb ∧ a.te = b.te ∧ a.fl = b.fl ∧ a.xa = b.xa ∧ a.xc = b.xc ∧
  a.pend = b.pend ∧ a.akey = b.akey ∧ a.priv = b.priv ∧ a.smode = b.smode ∧ a.cc = b.cc ∧ a.sig = b.sig

theorem Bank.alike_refl (a : Bank) : a.alike a := by simp [Bank.alike]

theorem Bank.alike_trans {a b c : Bank} (h : a.alike b) (k : b.alike c) : a.alike c := by
  obtain ⟨h0, h1, h2, h3, h4, h5, h6, h7, h8, h9, h10, h11, h12, h13⟩ := h
  obtain ⟨k0, k1, k2, k3, k4, k5, k6, k7, k8, k9, k10, k11, k12, k13⟩ := k
  exact ⟨h0.trans k0, h1.trans k1, h2.trans k2, h3.trans k3, h4.trans k4, h5.trans k5, h6.trans k6, h7.trans k7,
    h8.trans k8, h9.trans k9, h10.trans k10, h11.trans k11, h12.trans k12, h13.trans k13⟩

/-- A bit as a field. -/
theorem bit_eq_fld {n : Nat} (w : BitVec n) (i : Nat) : bit w i = decide (fld w i i = 1) := by
  simp only [bit, fld, BitVec.getLsbD, Nat.testBit_eq_decide_div_mod_eq, Nat.add_sub_cancel_left, Nat.pow_one]

theorem Bank.alike_setPs (a : Bank) (i v : Nat) (h : i = 16 ∨ i = 12) :
    ({ a with ps := setFld a.ps i i v } : Bank).alike a := by
  refine ⟨rfl, rfl, rfl, rfl, rfl, rfl, rfl, rfl, rfl, ?_, ?_, ?_, ?_, ?_⟩ <;>
    simp only [Bank.akey, Bank.priv, Bank.smode, Bank.cc, Bank.sig, bit_eq_fld] <;>
    rcases h with rfl | rfl
  · rw [fld_setFld_above] <;> decide
  · rw [fld_setFld_above] <;> decide
  · rw [fld_setFld_above] <;> decide
  · rw [fld_setFld_above] <;> decide
  · rw [fld_setFld_above] <;> decide
  · rw [fld_setFld_above] <;> decide
  · rw [fld_setFld_below] <;> decide
  · rw [fld_setFld_above] <;> decide
  · rw [fld_setFld_below] <;> decide
  · rw [fld_setFld_above] <;> decide

theorem Bank.alike_setOvr (a : Bank) : a.setOvr.alike a := Bank.alike_setPs a 16 1 (Or.inl rfl)
theorem Bank.alike_setUip (a : Bank) (v : Bool) : (a.setUip v).alike a := Bank.alike_setPs a 12 _ (Or.inr rfl)

@[simp] theorem Ctx.level_setOvr (x : Ctx) : x.setOvr.level = x.level := by
  cases h : x.exc <;> simp [Ctx.level, Ctx.setOvr, h]

theorem Ctx.alike_setOvr (x : Ctx) (l : Nat) : ((x.setOvr).bankOf l).alike (x.bankOf l) := by
  unfold Ctx.bankOf
  by_cases h0 : l = 0
  · rw [if_pos h0, if_pos h0]; exact Bank.alike_setOvr _
  · by_cases h1 : l = 1
    · cases h : x.exc <;> simp [h1, Ctx.setOvr, h, Bank.alike_setOvr, Bank.alike_refl]
    · simp only [h0, h1, Ctx.setOvr, if_false, List.length_map, List.getElem?_map]
      cases h : x.gates[x.gates.length + 1 - l]? <;> simp [Bank.alike_setOvr, Bank.alike_refl]

theorem Ctx.level_budget (x : Ctx) (a b : Nat) : ({ x with bcnt := a, win := b } : Ctx).level = x.level := rfl
theorem Ctx.bankOf_budget (x : Ctx) (a b l : Nat) :
    ({ x with bcnt := a, win := b } : Ctx).bankOf l = x.bankOf l := rfl

@[simp] theorem Ctx.level_charge (x : Ctx) (k : Nat) : (x.charge k).level = x.level := by
  unfold Ctx.charge
  split
  · rfl
  · split
    · rfl
    · rw [Ctx.level_budget]; exact Ctx.level_setOvr x

theorem Ctx.alike_charge (x : Ctx) (k l : Nat) : ((x.charge k).bankOf l).alike (x.bankOf l) := by
  unfold Ctx.charge
  split
  · exact Bank.alike_refl _
  · split
    · exact Bank.alike_refl _
    · rw [Ctx.bankOf_budget]; exact Ctx.alike_setOvr x l

@[simp] theorem getCore_chargeCore (s : State) (c d k : Nat) : getCore (chargeCore s c k) d = getCore s d := by
  unfold chargeCore
  split
  · split <;> rfl
  · rfl

/-- Charging a core leaves its registers alone. -/
theorem alike_chargeCore (s : State) (c k : Nat) : (curBank (chargeCore s c k) c).alike (curBank s c) := by
  unfold curBank
  rw [getCore_chargeCore]
  split
  · exact Bank.alike_refl _
  · cases h : (getCore s c).running with
    | none => exact Bank.alike_refl _
    | some n =>
      unfold chargeCore
      simp only [h]
      split
      · simp only [getCtx_setCtx, if_true, Ctx.level_charge]
        exact Ctx.alike_charge _ _ _
      · exact Bank.alike_refl _

-- registers

theorem curBank_setCore_far (s : State) (c : Nat) (f : List FarAcc) :
    curBank (setCore s c { getCore s c with far := f }) c = curBank s c := by
  simp [curBank]

theorem curBank_wrG (s : State) (c : Nat) (r : Reg) (w : TWord) :
    curBank (wrG s c r w) c =
      { curBank s c with
        g := (curBank s c).g.set r w, pend := setFld (curBank s c).pend r.val r.val 0, arr := tdel (curBank s c).arr r.val } := by
  unfold wrG
  simp only
  split
  · rw [curBank_setCore_far]; exact curBank_setBank ..
  · exact curBank_setBank ..

/-- A register write: its own register alone. -/
theorem peekG_wrG (s : State) (c : Nat) (r q : Reg) (w : TWord) :
    peekG (wrG s c r w) c q = if r = q then w else peekG s c q := by
  unfold peekG
  rw [curBank_wrG]
  by_cases hq : r = q
  · subst hq; simp
  · have : (r : Nat) ≠ q := fun e => hq (Fin.ext e)
    simp [hq, this]

theorem running_wrG (s : State) (c : Nat) (r : Reg) (w : TWord) :
    (getCore (wrG s c r w) c).running = (getCore s c).running := by
  unfold wrG
  simp only
  split <;> simp

-- retirement

theorem running_doSwap (s : State) (c d : Nat) : (getCore (doSwap s c) d).running = (getCore s d).running := by
  unfold doSwap
  split
  · by_cases h : c = d
    · subst h; simp
    · simp [h]
  · rfl

theorem own_doSwap (s : State) (c d : Nat) : (getCore (doSwap s c) d).own = (getCore s d).own := by
  unfold doSwap
  split
  · by_cases h : c = d
    · subst h; simp
    · simp [h]
  · rfl

theorem curBank_doSwap (s : State) (c : Nat) : curBank (doSwap s c) c = curBank s c := by
  unfold curBank
  rw [running_doSwap, own_doSwap]
  split
  · rfl
  · cases h : (getCore s c).running with
    | none => rfl
    | some n =>
      unfold doSwap
      simp only [h, getCtx_setCore, getCtx_setCtx, if_true]
      rfl

/-- The end of an emulation changes no register, no core and no memory. -/
theorem endEmu_keeps (s : State) (c : Nat) (x : Option Addr) :
    curBank (endEmu s c x) c = curBank s c ∧ (endEmu s c x).cores = s.cores ∧ (endEmu s c x).mem = s.mem := by
  unfold endEmu
  cases h : (getCore s c).running with
  | none => exact ⟨rfl, rfl, rfl⟩
  | some n =>
    dsimp only
    split
    · exact ⟨rfl, rfl, rfl⟩
    · exact ⟨curBank_setCtx c rfl fun l => rfl, rfl, rfl⟩

/-- Holding a core charges its context, and touches neither a register nor a core nor memory. -/
theorem holdCore_keeps (s : State) (c k n : Nat) :
    (curBank (holdCore s c k n) c).alike (curBank s c) ∧ (∀ d, getCore (holdCore s c k n) d = getCore s d) ∧
    (holdCore s c k n).mem = s.mem := by
  have hm : (chargeCore s c (k - n)).mem = s.mem := by
    unfold chargeCore; split
    · split <;> rfl
    · rfl
  unfold holdCore
  dsimp only
  rw [getCore_chargeCore]
  cases h : (getCore s c).running with
  | none => exact ⟨alike_chargeCore .., fun d => getCore_chargeCore .., hm⟩
  | some m =>
    dsimp only
    by_cases h0 : n = 0
    · simp only [h0, if_true]
      rw [h0] at hm
      exact ⟨alike_chargeCore .., fun d => getCore_chargeCore .., hm⟩
    · simp only [h0, if_false]
      refine ⟨?_, fun d => by rw [getCore_setCtx, getCore_chargeCore], hm⟩
      rw [curBank_setCtx c]
      · exact alike_chargeCore ..
      · rfl
      · intro l; rfl

@[simp] theorem mem_setBank (s : State) (c : Nat) (b : Bank) : (setBank s c b).mem = s.mem := by
  unfold setBank; split
  · rfl
  · split <;> rfl

@[simp] theorem mem_chargeCore (s : State) (c k : Nat) : (chargeCore s c k).mem = s.mem := by
  unfold chargeCore; split
  · split <;> rfl
  · rfl

@[simp] theorem mem_doSwap (s : State) (c : Nat) : (doSwap s c).mem = s.mem := by
  unfold doSwap; split <;> rfl

/-- A bank is written into its context, or into the core's own: of the cores nothing else changes. -/
theorem getCore_setBank (s : State) (c d : Nat) (b : Bank) :
    getCore (setBank s c b) d = { getCore s d with own := (getCore (setBank s c b) d).own } := by
  unfold setBank
  by_cases h : c = d
  · subst h; split
    · simp
    · cases hr : (getCore s c).running <;> simp
  · split
    · simp [h]
    · cases hr : (getCore s c).running <;> simp [h]

theorem sb_setBank (s : State) (c d : Nat) (b : Bank) : (getCore (setBank s c b) d).sb = (getCore s d).sb := by
  rw [getCore_setBank]
theorem far_setBank (s : State) (c d : Nat) (b : Bank) : (getCore (setBank s c b) d).far = (getCore s d).far := by
  rw [getCore_setBank]

theorem sb_doSwap (s : State) (c d : Nat) : (getCore (doSwap s c) d).sb = (getCore s d).sb := by
  unfold doSwap; split
  · by_cases h : c = d
    · subst h; simp
    · simp [h]
  · rfl

theorem far_doSwap (s : State) (c d : Nat) : (getCore (doSwap s c) d).far = (getCore s d).far := by
  unfold doSwap; split
  · by_cases h : c = d
    · subst h; simp
    · simp [h]
  · rfl

/-- The bank in use depends on no other part of the core than what it runs and its own bank. -/
theorem curBank_setCore {s : State} {c : Nat} {k : Core} (hr : k.running = (getCore s c).running)
    (ho : k.own = (getCore s c).own) : curBank (setCore s c k) c = curBank s c := by
  simp [curBank, hr, ho]

theorem curBank_now (s : State) (c t : Nat) : curBank { s with now := t } c = curBank s c := rfl

theorem kinds_stampFar (t : Nat) (q : List FarAcc) :
    ∀ h : List (Nat × Nat), (stampFar t h q).map FarAcc.kind = q.map FarAcc.kind := by
  induction q with
  | nil => intro h; rfl
  | cons f r ih => intro h; simp [stampFar, ih]

/-- Retirement of an instruction that is no far access: the registers are those its body left, and so are
memory, the store buffer and what the outstanding far accesses do. -/
theorem retire_alike {s : State} {q : Run} {d : Done} (hf : d.far = none) :
    (curBank (retire s q d) q.c).alike (curBank d.s q.c) ∧ (retire s q d).mem = d.s.mem ∧
    (getCore (retire s q d) q.c).sb = (getCore d.s q.c).sb ∧
    (getCore (retire s q d) q.c).far.map FarAcc.kind = (getCore d.s q.c).far.map FarAcc.kind ∧
    (getCore (retire s q d) q.c).running = (getCore d.s q.c).running := by
  have key : ∀ (s1 : State) (k n t f u : Nat) (sc : Sched) (nx : Addr),
      curBank s1 q.c = curBank d.s q.c → s1.mem = d.s.mem →
      (getCore s1 q.c).sb = (getCore d.s q.c).sb → (getCore s1 q.c).far = (getCore d.s q.c).far →
      (getCore s1 q.c).running = (getCore d.s q.c).running →
      let s2 := holdCore (endEmu s1 q.c (some nx)) q.c k n
      let s3 := setBank s2 q.c ({ curBank s2 q.c with ia := nx }.setUip d.atUnit)
      let k' := getCore s3 q.c
      let r := setCore { s3 with now := t, free := s3.free + 1 } q.c
        { k' with freeAt := f, sched := sc, far := stampFar u k'.hist.reverse k'.far }
      (curBank r q.c).alike (curBank d.s q.c) ∧ r.mem = d.s.mem ∧
      (getCore r q.c).sb = (getCore d.s q.c).sb ∧
      (getCore r q.c).far.map FarAcc.kind = (getCore d.s q.c).far.map FarAcc.kind ∧
      (getCore r q.c).running = (getCore d.s q.c).running := by
    intro s1 k n t f u sc nx hB hM hS hF hR s2 s3 k' r
    obtain ⟨eB, eC, eM⟩ := endEmu_keeps s1 q.c (some nx)
    have eG : getCore (endEmu s1 q.c (some nx)) q.c = getCore s1 q.c := by simp [getCore, eC]
    obtain ⟨h1, h2, h3⟩ := holdCore_keeps (endEmu s1 q.c (some nx)) q.c k n
    have g2 : getCore s2 q.c = getCore s1 q.c := (h2 q.c).trans eG
    have e1 : curBank r q.c = curBank s3 q.c := curBank_setCore (s := { s3 with now := t, free := s3.free + 1 }) rfl rfl
    have e2 : curBank s3 q.c = { curBank s2 q.c with ia := nx }.setUip d.atUnit := curBank_setBank ..
    refine ⟨?_, ?_, ?_, ?_, ?_⟩
    · rw [e1, e2, ← hB, ← eB]
      refine Bank.alike_trans (Bank.alike_setUip _ _) (Bank.alike_trans ?_ h1)
      exact ⟨rfl, rfl, rfl, rfl, rfl, rfl, rfl, rfl, rfl, rfl, rfl, rfl, rfl, rfl⟩
    · simp [r, s3, s2, h3, eM, hM]
    · simp [r, k', s3, sb_setBank, g2, hS]
    · simp [r, k', s3, far_setBank, g2, hF, kinds_stampFar]
    · simp [r, k', s3, g2, hR]
  unfold retire
  simp only [hf]
  by_cases hw : swapCycles s q.c d.fp = 0
  · simp only [hw, if_true]
    exact key d.s _ _ _ _ _ _ _ rfl rfl rfl rfl rfl
  · simp only [hw, if_false]
    exact key (doSwap d.s q.c) _ _ _ _ _ _ _ (curBank_doSwap ..) (mem_doSwap ..) (sb_doSwap ..) (far_doSwap ..)
      (running_doSwap ..)

/-- No event is taken inside an instruction that makes no emulation. -/
@[simp] theorem emuStop_zero (s : State) (q : Run) : emuStop s q 0 = none := by
  unfold emuStop emuCut
  cases eventAfter s q.c (startOf s q) <;> simp

/-- Outside an abort window nothing is cut short. -/
theorem cutShort_free {s t : State} {c : Nat} (h : inAbort s c = false) : cutShort s c t = t := by
  unfold cutShort inAbort at *
  split
  next n hn => simp only [hn] at h; simp [h]
  · rfl

end Sys2Proof.Machine
end

