-- ==== Sys2Proof/Laws/Decimal.lean ====
section
/-! SUPPORT. The residue check of R212 passes for every result that the decimal operations compute. -/

namespace Sys2Proof.Machine

theorem residue_cast {m : Nat} (hm : 0 < m) (v : Int) : (residue m v : Int) = v % m :=
  Int.toNat_of_nonneg (Int.emod_nonneg v (by omega))

theorem residue_lt {m : Nat} (hm : 0 < m) (v : Int) : residue m v < m := by
  have h := residue_cast hm v
  have := Int.emod_lt_of_pos v (b := m) (by omega)
  omega

/-- The residue of a value that another one equals modulo `m`. -/
theorem residue_eq {m : Nat} (hm : 0 < m) {n : Nat} {v : Int} (h : (n : Int) % m = v % m) : n % m = residue m v := by
  have := residue_cast hm v
  have h2 : ((n % m : Nat) : Int) = v % m := by rw [Int.natCast_emod]; exact h
  omega

/-- A residue stands for its value. -/
theorem residue_modEq {m : Nat} (hm : 0 < m) (v : Int) : (residue m v : Int) ≡ v [ZMOD m] := by
  rw [residue_cast hm]; exact Int.mod_modEq v m

theorem residueStep_true (m : Nat) : residueStep m true = .ok () := rfl

/-- R212: a sum, difference, product or quotient passes. -/
theorem opPasses_exact {m : Nat} (hm : 0 < m) (op : DOp) (a b : Int) : opPasses m op a b (decOp op a b) = true := by
  have ha := residue_modEq hm a
  have hb := residue_modEq hm b
  cases op
  · exact decide_eq_true (residue_eq hm (by push_cast; exact ha.add hb))
  · have hl := residue_lt hm b
    refine decide_eq_true (residue_eq hm ?_)
    have : ((residue m a + (m - residue m b) : Nat) : Int) = residue m a - residue m b + m := by omega
    rw [this, Int.add_emod_right]
    exact ha.sub hb
  · exact decide_eq_true (residue_eq hm (by push_cast; exact ha.mul hb))
  · refine decide_eq_true (residue_eq hm ?_)
    push_cast
    have h := ((residue_modEq hm (a.tdiv b)).mul hb).add (residue_modEq hm (a.tmod b))
    have e : a.tdiv b * b + a.tmod b = a := by rw [mul_comm]; exact Int.mul_tdiv_add_tmod a b
    rw [e] at h
    exact h
  · rfl

/-- R212: a conversion passes. -/
theorem convPasses_exact (m : Nat) (v : Int) : convPasses m v = true := by
  unfold convPasses signed signOf signNeg
  by_cases h : v < 0
  · simp [h, abs_of_neg h]
  · simp [h, abs_of_nonneg (not_lt.mp h)]

/-- R212: a shift passes. -/
theorem shiftPasses_exact {m : Nat} (hm : 0 < m) (v s : Int) (rnd : Nat) :
    shiftPasses m v s rnd (shiftRound v s rnd) = true := by
  unfold shiftPasses shiftRound
  by_cases h : 0 ≤ s
  · simp only [h, if_true, decide_eq_true_eq]
    exact residue_eq hm (by push_cast; exact (residue_modEq hm v).mul_right _)
  · simp only [h, if_false, decide_eq_true_eq]
    generalize (-s).toNat = k
    generalize hr : (if 10 ≤ v.natAbs / 10 ^ (k - 1) % 10 + rnd then v.natAbs / 10 ^ k + 1 else v.natAbs / 10 ^ k) = r
    have e : (if v < 0 then -(r : Int) else (r : Int)).natAbs = r := by split <;> simp
    rw [e]
    have hd := Nat.div_add_mod v.natAbs (10 ^ k)
    have key : r * 10 ^ k + v.natAbs % 10 ^ k =
        v.natAbs + (if 10 ≤ v.natAbs / 10 ^ (k - 1) % 10 + rnd then 1 else 0) * 10 ^ k := by
      rw [← hr]
      generalize 10 ^ k = p at hd ⊢
      split <;> nlinarith
    have l : (residue m r : Int) * 10 ^ k + (v.natAbs % 10 ^ k : Nat) ≡
        (r * 10 ^ k + v.natAbs % 10 ^ k : Nat) [ZMOD m] := by
      push_cast
      exact ((residue_modEq hm r).mul_right _).add_right _
    have l2 : (residue m v.natAbs : Int) + (if 10 ≤ v.natAbs / 10 ^ (k - 1) % 10 + rnd then 1 else 0 : Nat) * 10 ^ k ≡
        (v.natAbs + (if 10 ≤ v.natAbs / 10 ^ (k - 1) % 10 + rnd then 1 else 0) * 10 ^ k : Nat) [ZMOD m] := by
      push_cast
      exact (residue_modEq hm _).add_right _
    rw [key] at l
    have := l.trans l2.symm
    have h3 : ((residue m r * 10 ^ k + v.natAbs % 10 ^ k : Nat) : Int) ≡
        (residue m v.natAbs + (if 10 ≤ v.natAbs / 10 ^ (k - 1) % 10 + rnd then 1 else 0) * 10 ^ k : Nat) [ZMOD m] := by
      push_cast at this ⊢; exact this
    exact (Int.natCast_modEq_iff.mp h3)

/-- R212: a unit of a long product or quotient passes. -/
theorem unitPasses_exact (op : DOp) (n k a b cur : Nat) (hop : op = .mul ∨ op = .div) :
    unitPasses op n k a b cur (longNext op n k a b cur) = true := by
  have h9 : 0 < 9 := by decide
  rcases hop with rfl | rfl
  · simp only [unitPasses, longNext, if_true, decide_eq_true_eq]
    refine residue_eq h9 ?_
    push_cast
    exact (residue_modEq h9 _).add
      (((residue_modEq h9 ((b / 10 ^ k % 10 : Nat) : Int)).mul (residue_modEq h9 (a : Int))).mul_right _)
  · simp only [unitPasses, longNext, reduceCtorEq, if_false, Bool.and_eq_true, decide_eq_true_eq]
    generalize a / 10 ^ (n - k - 1) = d
    constructor
    · refine residue_eq h9 ?_
      have e : d / b % 10 * b + d % b = d / 10 % b * 10 + d % 10 := by
        rcases Nat.eq_zero_or_pos b with rfl | hb
        · simp; omega
        · have h1 := Nat.div_add_mod d b
          have h2 := Nat.div_add_mod (d / 10) b
          have h3 := Nat.div_add_mod (d / b) 10
          have h4 : d / b / 10 = d / 10 / b := by rw [Nat.div_div_eq_div_mul, Nat.div_div_eq_div_mul, mul_comm]
          have h5 := Nat.div_add_mod d 10
          rw [h4] at h3
          nlinarith
      rw [← e]
      push_cast
      exact ((residue_modEq h9 ((d / b % 10 : Nat) : Int)).mul (residue_modEq h9 (b : Int))).add
        (residue_modEq h9 ((d % b : Nat) : Int))
    · refine residue_eq h9 ?_
      push_cast
      exact ((residue_modEq h9 (cur : Int)).mul_right 10).add_right _

end Sys2Proof.Machine
end

