-- ==== Sys2Proof/Laws/Encoding.lean ====
section
/-! SUPPORT. The decoder of chapter 04: what each of its parts answers. -/

namespace Sys2Proof.Machine

/-- A byte below xF0 ends the prefixes. -/
theorem prefixScan_first {b : Byte} (h : b.toNat < 0xF0) (sm : Bool) (rep : Option Bool) (long : Bool) (o : Nat)
    (r : List Byte) : prefixScan sm rep long o (b :: r) = .first rep long o := by
  simp [prefixScan, h]

/-- A row whose fields are all in order is its command. -/
theorem settleRow_ok {k : Nat} {i : Instr} {l : List (Option Nat)} (h : firstOf l = none) :
    settleRow k (some (i, l)) = .instr i := by
  simp [settleRow, h]

/-- The least offset decides. -/
theorem settleRow_bad {k o : Nat} {i : Instr} {l : List (Option Nat)} (h : firstOf l = some o) :
    settleRow k (some (i, l)) = .undefined o := by
  simp [settleRow, h]

@[simp] theorem settleRow_none (k : Nat) : settleRow k none = .undefined k := rfl

/-- A field that is zero decides nothing. -/
@[simp] theorem rsvdAt_zero (o : Nat) : rsvdAt 0 o = none := rfl
theorem rsvdAt_pos {v : Nat} (h : v ≠ 0) (o : Nat) : rsvdAt v o = some o := by simp [rsvdAt, badAt, h]

/-- A core's own instruction is its command, or the exception of its undefined byte. -/
theorem runNext_cases (c n : Nat) (s : State) :
    (∃ i, instrAt s c n = .instr i ∧ runNext c n s = exec i s) ∨
    (∃ o, instrAt s c n = .undefined o ∧ runNext c n s = undefinedAt c o s) := by
  cases h : instrAt s c n with
  | instr i => exact .inl ⟨i, rfl, by simp [runNext, h]⟩
  | undefined o => exact .inr ⟨o, rfl, by simp [runNext, h]⟩

end Sys2Proof.Machine
end

