-- ==== Sys2Proof/Laws/Hash.lean ====
section
/-! SUPPORT. Laws of the digests: their lengths. -/

namespace Sys2Proof.Machine

theorem length_sha512Step (v : List Word) (k : Word × Word) : (sha512Step v k).length = v.length := by
  unfold sha512Step
  split <;> rfl

theorem length_sha512Fold (l : List (Word × Word)) (v : List Word) : (l.foldl sha512Step v).length = v.length := by
  induction l generalizing v with
  | nil => rfl
  | cons k r ih => rw [List.foldl_cons, ih, length_sha512Step]

theorem length_sha512Blocks (n : Nat) (bs : List Byte) (h : List Word) : (sha512Blocks n bs h).length = h.length := by
  induction n generalizing bs h with
  | zero => rfl
  | succ n ih =>
    simp only [sha512Blocks]
    rw [ih]
    simp [length_sha512Fold]

theorem length_wordsBytes (l : List Word) : (l.flatMap wordBytes).length = 8 * l.length := by
  induction l with
  | nil => rfl
  | cons w r ih =>
    simp only [List.flatMap_cons, List.length_append, ih, length_wordBytes, List.length_cons]
    omega

/-- A SHA-512 digest has 64 bytes. -/
@[simp] theorem length_sha512 (m : List Byte) : (sha512 m).length = 64 := by
  simp only [sha512, length_wordsBytes, length_sha512Blocks]
  rfl

end Sys2Proof.Machine
end

