-- ==== Sys2Proof/Laws/Run.lean ====
section
/-! SUPPORT. The one run of an instruction, said once: when nothing stands before it, its body decides. -/

namespace Sys2Proof.Machine

/-- The lines of an instruction are held. -/
theorem lines_held {k : Core} {ls : List Nat} (h : ls.all (fun l => k.lines.contains l) = true) :
    (ls.any fun l => !k.lines.contains l) = false := by
  simp only [List.any_eq_false, List.all_eq_true] at h ⊢
  intro l hl
  rw [h l hl]
  decide

/-- Nothing stands before the instruction: its body runs, and its outcome is the instruction's. -/
theorem runCore_clear {s : State} {q : Run} {body : State → Except Stop Done} (h : clear s q = true) :
    runCore s q body =
      match body (opened s q) with
      | .ok d => .next (settleDone (opened s q) q d)
      | .error (.exc e) => settleExc (opened s q) q e
      | .error (.part s1 cnt e) =>
        takeExc (clearFrb (spendFrom s1 q.c (startOf (opened s q) q) cnt) q.c) q.c 0 e
      | .error (.far ws) => .next (beginPre (opened s q) q ws)
      | .error .wait => .next s := by
  simp only [clear, Bool.and_eq_true, Option.isNone_iff_eq_none] at h
  obtain ⟨⟨⟨⟨⟨⟨hw, -⟩, hr⟩, hb⟩, hu⟩, hf⟩, hl⟩ := h
  replace hb : barred s q.c (startOf s q) = false := by simpa using hb
  unfold runCore
  simp only [hw, hr, hb, hu, hf, lines_held hl, Bool.and_self, Bool.not_true, Bool.false_eq_true, if_false]
  all_goals rfl

/-- A core that nothing stands before is in no abort window, while its body runs too. -/
theorem inAbort_of_clear {s : State} {q : Run} (h : clear s q = true) : inAbort s q.c = false := by
  simp only [clear, Bool.and_eq_true] at h
  simpa using h.1.1.1.1.1.2

/-- What a write to memory may change: memory itself, a heap-control block's copy and the refused-write counter. -/
theorem applyWrite_keeps (s : State) (w : PWrite) :
    (applyWrite s w).cores = s.cores ∧ (applyWrite s w).ctxs = s.ctxs ∧ (applyWrite s w).prot = s.prot ∧
    (applyWrite s w).part = s.part ∧ (applyWrite s w).phase = s.phase ∧ (applyWrite s w).now = s.now ∧
    (applyWrite s w).pending = s.pending := by
  unfold applyWrite
  split
  · simp [refuse]
  · split
    · split
      · dsimp only
        split <;> simp [refuse]
      · simp [refuse]
    · simp

theorem applyWrites_keeps (ws : List PWrite) : ∀ (s : State),
    (applyWrites s ws).cores = s.cores ∧ (applyWrites s ws).ctxs = s.ctxs ∧ (applyWrites s ws).prot = s.prot ∧
    (applyWrites s ws).part = s.part ∧ (applyWrites s ws).phase = s.phase ∧ (applyWrites s ws).now = s.now ∧
    (applyWrites s ws).pending = s.pending := by
  induction ws with
  | nil => intro s; simp [applyWrites]
  | cons w r ih =>
    intro s
    obtain ⟨h1, h2, h3, h4, h5, h6, h7⟩ := ih (applyWrite s w)
    obtain ⟨k1, k2, k3, k4, k5, k6, k7⟩ := applyWrite_keeps s w
    exact ⟨h1.trans k1, h2.trans k2, h3.trans k3, h4.trans k4, h5.trans k5, h6.trans k6, h7.trans k7⟩

/-- The state in which a body runs: contexts, the registers of the core and what it runs are those before. -/
theorem opened_keeps (s : State) (q : Run) :
    (opened s q).ctxs = s.ctxs ∧ curBank (opened s q) q.c = curBank s q.c ∧
    (getCore (opened s q) q.c).running = (getCore s q.c).running ∧
    (getCore (opened s q) q.c).ownF = (getCore s q.c).ownF ∧ (opened s q).prot = s.prot ∧
    (opened s q).part = s.part := by
  have key : ∀ s1 : State, s1.ctxs = s.ctxs → (getCore s1 q.c).running = (getCore s q.c).running →
      (getCore s1 q.c).own = (getCore s q.c).own → (getCore s1 q.c).ownF = (getCore s q.c).ownF →
      s1.prot = s.prot → s1.part = s.part →
      let t := setCore s1 q.c { getCore s1 q.c with lines := fetchLines s (curBank s q.c).ia.toNat q.len }
      t.ctxs = s.ctxs ∧ curBank t q.c = curBank s q.c ∧
      (getCore t q.c).running = (getCore s q.c).running ∧ (getCore t q.c).ownF = (getCore s q.c).ownF ∧
      t.prot = s.prot ∧ t.part = s.part := by
    intro s1 h1 h2 h3 h4 h5 h6 t
    refine ⟨h1, ?_, by simp [t, h2], by simp [t, h4], h5, h6⟩
    have hx : ∀ n, getCtx t n = getCtx s n := fun n => by simp [t, getCtx, h1]
    simp [curBank, t, h2, h3, getCtx, h1]
  unfold opened
  by_cases hw : q.tm.whole
  · simp only [hw, if_true]
    obtain ⟨k1, k2, k3, k4, -⟩ := applyWrites_keeps (getCore s q.c).sb s
    have hc : ∀ d, getCore (applyWrites s (getCore s q.c).sb) d = getCore s d := fun d => by
      rw [getCore, k1]; rfl
    exact key (drainAll s q.c) (by simp [drainAll, k2]) (by simp [drainAll, hc]) (by simp [drainAll, hc])
      (by simp [drainAll, hc]) (by simp [drainAll, k3]) (by simp [drainAll, k4])
  · simp only [hw]
    exact key s rfl rfl rfl rfl rfl rfl

/-- Emptying the far-read buffer changes no register. -/
theorem curBank_clearFrb (s : State) (c : Nat) : curBank (clearFrb s c) c = curBank s c := by
  unfold clearFrb
  cases h : (getCore s c).running with
  | none => simp [curBank, h]
  | some n =>
    unfold curBank
    simp only [h, getCore_setCtx, getCtx_setCtx, if_true]
    rfl

theorem inAbort_opened (s : State) (q : Run) : inAbort (opened s q) q.c = inAbort s q.c := by
  obtain ⟨h1, -, h2, -⟩ := opened_keeps s q
  simp only [inAbort, h2, getCtx, h1]

/-- Only a far access can be withdrawn for want of room. -/
@[simp] theorem noRoom_near {s : State} {q : Run} {d : Done} (h : d.far = none) : noRoom s q d = false := by
  simp [noRoom, h]

/-- An instruction that nothing stands before, that makes no emulation and whose far access has room retires with what its
body leaves. -/
theorem runCore_ok {s : State} {q : Run} {body : State → Except Stop Done} {d : Done} (h : clear s q = true)
    (hb : body (opened s q) = .ok d) (he : d.emu = 0) (hn : noRoom (opened s q) q d = false) :
    runCore s q body = .next (retire (opened s q) q (closed q d)) := by
  have ha : inAbort (opened s q) q.c = false := by rw [inAbort_opened]; exact inAbort_of_clear h
  rw [runCore_clear h, hb]
  simp only [settleDone, hn, Bool.false_eq_true, if_false, he, emuStop_zero, Option.getD_none, cutShort_free ha]

end Sys2Proof.Machine
end

