-- ==== Sys2Proof/Tests/Slice0.lean ====
section
/-! SUPPORT. The tests: ill-formed terms that the check refuses, one step on a small state, and for each statement
states and operands that meet its hypotheses together. Expected results come from the rules named. -/

namespace Sys2Proof.Tests

open Sys2Proof Sys2Proof.Machine

set_option Elab.async false

-- well-formedness

theorem test_wf_core : (Instr.gret 259).wf = true ∧ (Instr.gret 260).wf = false := by decide
theorem test_wf_port : (Instr.ack 7).wf = true ∧ (Instr.ack 8).wf = false := by decide
theorem test_wf_any_port : (Instr.relock 8).wf = true ∧ (Instr.relock 9).wf = false := by decide
theorem test_wf_lane : (Instr.stagingStart 255).wf = true ∧ (Instr.stagingStart 256).wf = false := by decide
theorem test_wf_cell : (Instr.wake 63).wf = true ∧ (Instr.wake 64).wf = false := by decide
theorem test_wf_displacement : (Instr.ld1 0 1 (.sto ⟨.based, false, 1, 0, 4095⟩)).wf = true ∧
    (Instr.ld1 0 1 (.sto ⟨.based, false, 1, 0, 4096⟩)).wf = false := by decide
theorem test_wf_index : (Instr.ld1 0 1 (.sto ⟨.postInc, false, 1, 1, 0⟩)).wf = false := by decide
theorem test_wf_storage_register : (Instr.ld1 0 16 (.sto ⟨.based, false, 1, 0, 0⟩)).wf = false := by decide
theorem test_wf_storage_forms : (Instr.add 0 (.sr 16 1)).wf = false ∧ (Instr.add 0 (.sx 16 ⟨.based, false, 1, 0, 0⟩)).wf = false ∧
    (Instr.neg 0 (.sr 1 16)).wf = false ∧ (Instr.fadd 0 (.sr 16 1)).wf = false ∧ (Instr.movs 0 (.sto 16 1) 0).wf = false ∧
    (Instr.brl 0 (.sto 16 ⟨.based, false, 1, 0, 0⟩)).wf = false ∧ (Instr.bct 0 16 ⟨.based, false, 1, 0, 0⟩).wf = false := by decide
theorem test_wf_shift_form : (Instr.shl 0 (.sx 1 ⟨.based, false, 1, 0, 0⟩)).wf = false := by decide
theorem test_wf_length : (Instr.lda 0 0 0 64 (.reg (.short 0))).wf = true ∧ (Instr.lda 0 0 0 65 (.reg (.short 0))).wf = false ∧
    (Instr.pack 0 0 1 (.reg (.short 0)) (.reg (.short 0))).wf = false := by decide
theorem test_wf_second_operand : (Instr.pack 0 1 1 (.reg (.short 0)) (.reg (.long 0))).wf = false ∧
    (Instr.pack 0 1 1 (.reg (.short 0)) (.sto ⟨.based, false, 1, 0, 0⟩)).wf = false := by decide
theorem test_wf_three_operands : (Instr.dadd 0 (.mmm 33 1 1 (.reg (.short 0)) (.reg (.short 0)) (.reg (.short 0)))).wf = false ∧
    (Instr.dcmp 0 (.mmm 1 1 1 (.reg (.short 0)) (.reg (.short 0)) (.reg (.short 0)))).wf = false := by decide
theorem test_wf_branch : (Instr.brc 0 (.sto 1 ⟨.indirect, false, 1, 1, 0⟩)).wf = false := by decide
theorem test_wf_custom : (Instr.cust 0 (List.replicate 13 0) 0 .none).wf = false ∧
    (Instr.cust 0 [] 0 (.rm 1 (.sto ⟨.based, false, 1, 0, 4096⟩))).wf = false := by decide
theorem test_wf_repeated : (Instr.repi 0 (.other 16) 1).wf = false ∧ (Instr.repu 0 (.ld 0 16 (.sto ⟨.based, false, 1, 0, 0⟩))).wf = false ∧
    (Instr.repi 0 (.dsrd 257 0 0 (.reg (.short 0))) 1).wf = false := by decide
theorem test_wf_tables : (Instr.keyTableWrite 4194304 false ⟨0, 0⟩).wf = false ∧ (Instr.regionShadowWrite 1024 false ⟨0, 0⟩).wf = false ∧
    (Instr.selectorWrite 0 []).wf = false ∧ (Instr.soloGrantExpiry 16).wf = false := by decide
/-- No row of the table has bits. -/
theorem test_no_words : ∀ n w, decodeTableWord n w = none := fun _ _ => rfl

-- small states

/-- A device in service, a G variant. -/
def live : State := { State.reset with phase := .running }

/-- A bank whose program stands at `ia`, at Steward privilege, in a mode, with the registers of `l`. -/
def bankOf (ia : Addr) (sm : Bool) (l : List (Nat × TWord)) : Bank :=
  { Bank.fresh with
    ia := ia
    ps := if sm then 0x20000 else 0
    te := 0
    g := Vector.ofFn fun r => tget nil l r.val }

/-- Steward core 0, at the start of cell 0. -/
def stew (sm : Bool) (l : List (Nat × TWord)) : State :=
  setCore live 256 { Core.reset with own := bankOf 0xF000000400 sm l }

/-- A context RUNNING on lane 0 at level 0. -/
def ctxOf (sm : Bool) (l : List (Nat × TWord)) : Ctx :=
  { Ctx.free with
    st := .running, base := bankOf 0xFE00000400 sm l, bcnt := 100000, started := true, dl := 100, serial := 7, orig := 5, stamp := 3 }

/-- Lane 0 with context 0. -/
def lane (sm : Bool) (l : List (Nat × TWord)) : State :=
  setCtx (setCore live 0 { Core.reset with running := some 0, banks := [0] }) 0 (ctxOf sm l)

/-- Something of the state that a command leaves. -/
def got {α : Type} (i : Instr) (s : State) (f : State → α) : Option α :=
  match exec i s with
  | .next t => some (f t)
  | _ => none

/-- The words of memory at addresses. -/
def withMem (s : State) (l : List (Nat × TWord)) : State :=
  { s with mem := l.foldl (fun m e => wrWord m e.1 e.2) s.mem }

def i8 (n : Nat) : TWord := ⟨0x10, BitVec.ofNat 64 n⟩
def raw (n : Nat) : TWord := ⟨0, BitVec.ofNat 64 n⟩

-- the schedule

/-- One instruction on the schedule: how it is scheduled, its count, whether it is a far access and a branch. -/
def pathStep (x : Sched × Nat) (o : Tm × Nat × Bool × Bool) : Sched × Nat :=
  let far := o.2.2.1
  let p := schedule x.1 x.2 o.1 o.2.1 (if far then 640 else o.2.1) (if far then 64 else o.2.1) o.2.2.2 0 0
    (if far then some 0 else none)
  (p.1, p.2.2)

def ldTm (d b : Nat) : Tm := ⟨false, true, .load, [b], [], [d]⟩

/-- The worked WCET of chapter 08: the block I1 to I11 on its longer path ends at cycle 668. -/
theorem test_worked_wcet :
    ([(ldTm 6 2, 3, false, false), (ldTm 9 6, 3, false, false), (ldTm 11 9, 3, true, false), (ldTm 7 1, 3, false, false),
      (ldTm 8 6, 3, false, false), (Tm.alu [7, 8] [64], 1, false, false), (Tm.pipe [64] [], 1, false, true),
      (Tm.core [13, 6, 1], 16, false, false), (⟨false, false, .mul, [7, 11], [], [12]⟩, 4, false, false),
      (⟨false, true, .store, [12, 13], [], []⟩, 2, false, false), (Tm.core [13, 14], 16, false, false)].foldl pathStep
        (Sched.fresh 0, 0)).2 = 668 := by decide +kernel

-- integer instructions

def ab : List (Nat × TWord) := [(1, i8 9), (2, i8 7), (3, i8 3)]
def rrr : AluForm := .rr 1 2 3

theorem test_add : got (.add 256 rrr) (stew false ab) (peekG · 256 1) = some (i8 10) := by decide +kernel
/-- R241: an untrapped overflow keeps the low bits and sets V. -/
theorem test_mul_overflow : got (.mul 256 rrr) (stew false [(2, i8 (2 ^ 63)), (3, i8 2)]) (fun t => (peekG t 256 1, (curBank t 256).fl)) =
    some (i8 0, 1) := by decide +kernel
theorem test_sub_storage : got (.sub 256 (.sr 2 3)) (stew true ab) (peekG · 256 2) = some (i8 4) := by decide +kernel
/-- R243: truncation toward zero, the remainder with the dividend's sign. -/
theorem test_div : got (.div 256 (.rr 4 2 3)) (stew false [(2, ⟨0x10, -7⟩), (3, i8 3)]) (fun t => (peekG t 256 4, peekG t 256 5)) =
    some (⟨0x10, -2⟩, ⟨0x10, -1⟩) := by decide +kernel
theorem test_div_zero : got (.div 256 (.rr 4 2 3)) (stew false [(2, i8 7), (3, i8 0)]) (fun t => (peekG t 256 4, peekG t 256 5, (curBank t 256).fl)) =
    some (i8 0, i8 7, 2) := by decide +kernel
theorem test_shl : got (.shl 256 rrr) (stew false ab) (peekG · 256 1) = some (i8 56) := by decide +kernel
theorem test_shr_all : got (.shr 256 rrr) (stew false [(2, ⟨0x10, -1⟩), (3, i8 64)]) (peekG · 256 1) = some (i8 0) := by decide +kernel
theorem test_sar_all : got (.sar 256 rrr) (stew false [(2, ⟨0x10, -1⟩), (3, i8 64)]) (peekG · 256 1) = some ⟨0x10, -1⟩ := by decide +kernel
theorem test_and : got (.and 256 rrr) (stew false ab) (peekG · 256 1) = some (i8 3) := by decide +kernel
theorem test_or : got (.or 256 rrr) (stew false ab) (peekG · 256 1) = some (i8 7) := by decide +kernel
theorem test_xor : got (.xor 256 rrr) (stew false ab) (peekG · 256 1) = some (i8 4) := by decide +kernel
theorem test_neg : got (.neg 256 (.rr 1 2)) (stew false ab) (peekG · 256 1) = some ⟨0x10, -7⟩ := by decide +kernel
theorem test_addi : got (.addi 256 1 2 0x3FFF) (stew false ab) (peekG · 256 1) = some (i8 6) := by decide +kernel
theorem test_cmp_signed : got (.cmp 256 rrr) (stew false [(2, ⟨0x10, -1⟩), (3, i8 1)]) (fun t => (curBank t 256).cc) = some 1 := by decide +kernel
theorem test_cmpi : got (.cmpi 256 2 7) (stew false ab) (fun t => (curBank t 256).cc) = some 0 := by decide +kernel
theorem test_ldi : got (.ldi 256 1 0x2000) (stew false []) (peekG · 256 1) = some ⟨0x10, -8192⟩ := by decide +kernel
theorem test_mov_keeps_tag : got (.mov 256 (.rr 1 2)) (stew false [(2, raw 5)]) (peekG · 256 1) = some (raw 5) := by decide +kernel

/-- A check that passes, and what its result meets. -/
def okIs {ε α : Type} (x : Except ε α) (p : α → Bool) : Bool :=
  match x with
  | .ok o => p o
  | .error _ => false

def okAny {ε α : Type} (x : Except ε α) : Bool := okIs x fun _ => true

/-- A value that a register read answers. -/
def readsAs (s : State) (c : Nat) (r : Reg) (w : TWord) : Bool := okIs (rdG s c r) (· == w)

def post2 : AluForm := .sx 2 ⟨.postInc, false, 3, 0, 0⟩

theorem wit_IntegerResult :
    (let q := aluRunOf (.add 256 rrr) 256 rrr false .alu fun r => [r.val]
     let s := stew false ab
     clear s q && okIs (aluIn (opened s q) 256 rrr) fun o => isInt o.a && isInt o.b && !(intRes .add o.a.pay o.b.pay).ovf) = true ∧
    (let q := aluRunOf (.mul 256 post2) 256 post2 false .mul fun r => [r.val]
     let s := withMem (stew true [(2, i8 (2 ^ 63)), (3, ptr 5 false 0xF000001000)]) [(0xF000001000, i8 2)]
     clear s q && !teBit s 256 0 &&
       okIs (aluIn (opened s q) 256 post2) fun o => isInt o.a && isInt o.b && (intRes .mul o.a.pay o.b.pay).ovf) = true := by
  decide +kernel

def setTe (s : State) (c : Nat) (v : Word) : State := setBank s c { curBank s c with te := v }

theorem wit_IntegerResult_trap :
    (let q := aluRunOf (.mul 0 rrr) 0 rrr false .mul fun r => [r.val]
     let s := setTe (lane false [(2, i8 (2 ^ 63)), (3, i8 2)]) 0 1
     clear s q && teBit s 0 0 &&
       okIs (aluIn (opened s q) 0 rrr) fun o => isInt o.a && isInt o.b && (intRes .mul o.a.pay o.b.pay).ovf) = true := by
  decide +kernel

/-- R241: ADDI, SHLI and NEG trap where the result does not fit. -/
theorem wit_IntegerResult_immediate_trap :
    (let s := setTe (lane false [(2, i8 (2 ^ 63 - 1)), (3, i8 (2 ^ 63))]) 0 1
     clear s (immRunOf (.addi 0 1 2 1) 0 [2] [1]) && clear s (immRunOf (.shli 0 1 2 2) 0 [2] [1]) && readsAs s 0 2 (i8 (2 ^ 63 - 1)) &&
       (intRes .add (i8 (2 ^ 63 - 1)).pay 1).ovf && (intRes .shl (i8 (2 ^ 63 - 1)).pay 2).ovf && teBit s 0 0 &&
       clear s (unRunOf (.neg 0 (.rr 1 3)) 0 (.rr 1 3)) && readsAs s 0 3 (i8 (2 ^ 63))) = true := by decide +kernel

theorem wit_IntegerResult_mov :
    (let s := stew false ab
     clear s (unRunOf (.mov 256 (.rr 1 2)) 256 (.rr 1 2)) && readsAs s 256 2 (i8 7)) = true := by decide +kernel

theorem wit_IntegerResult_immediate :
    (let s := stew false ab
     clear s (immRunOf (.addi 256 1 2 0x3FFF) 256 [2] [1]) && readsAs s 256 2 (i8 7) && !teBit s 256 0) = true ∧
    (let s := stew false [(2, i8 (2 ^ 63))]
     clear s (unRunOf (.neg 256 (.rr 1 2)) 256 (.rr 1 2)) && readsAs s 256 2 ⟨0x10, 0x8000000000000000⟩ && !teBit s 256 0) = true := by
  decide +kernel

/-- Plain operands, a zero divisor, and the overflow of MIN by -1. -/
theorem wit_DivideCompare :
    (([(-7, 3), (7, 0), (0x8000000000000000, -1)] : List (Word × Word)).all fun p =>
      let q := aluRunOf (.div 256 (.rr 4 2 3)) 256 (.rr 4 2 3) true .div fun r => [r.val, r.val + 1]
      let s := stew false [(2, ⟨0x10, p.1⟩), (3, ⟨0x10, p.2⟩)]
      clear s q && !teBit s 256 0 && !teBit s 256 1 &&
        okIs (aluIn (opened s q) 256 (.rr 4 2 3)) fun o => isInt o.a && isInt o.b && o.a.pay == p.1 && o.b.pay == p.2) = true ∧
    (let s := stew false ab
     let q := aluRunOf (.cmp 256 rrr) 256 rrr false .alu fun _ => [64]
     clear s q && okIs (aluIn (opened s q) 256 rrr) (fun o => isInt o.a && isInt o.b) &&
       clear s (immRunOf (.cmpi 256 2 7) 256 [2] [64]) && readsAs s 256 2 (i8 7)) = true := by
  decide +kernel

theorem wit_DivideCompare_trap :
    (([(7, 0), (0x8000000000000000, -1)] : List (Word × Word)).all fun p =>
      let q := aluRunOf (.div 0 (.rr 4 2 3)) 0 (.rr 4 2 3) true .div fun r => [r.val, r.val + 1]
      let s := setTe (lane false [(2, ⟨0x10, p.1⟩), (3, ⟨0x10, p.2⟩)]) 0 3
      clear s q && teBit s 0 0 && teBit s 0 1 &&
        okIs (aluIn (opened s q) 0 (.rr 4 2 3)) fun o => isInt o.a && isInt o.b && o.a.pay == p.1 && o.b.pay == p.2) = true := by
  decide +kernel
theorem test_div_trap : got (.div 0 (.rr 4 2 3)) (setTe (lane false [(2, i8 7), (3, i8 0)]) 0 3) (fun t => (getCore t 0).exc.map (·.code)) =
    some (some 10) := by decide +kernel

theorem wit_WordResults :
    (let s := stew false ab
     readsAs s 256 2 (i8 7) &&
       clear s ⟨256, some false, 3, none, Tm.alu [2] [1], (Instr.tagr 256 1 2).wf⟩ && clear s (immRunOf (.ldi 256 1 5) 256 [] [1]) &&
       clear s ⟨256, some false, 10, none, Tm.alu [] [1], (Instr.ldiw 256 1 5).wf⟩) = true := by decide +kernel

theorem wit_SpecialRegisters_ident :
    (let s := stew false ab
     ([.identUnitPresence 256 1, .identContext 256 1, .identVersions 256 1, .identPair 256 1] : List Instr).all fun i =>
         clear s (identRun i s 256 1)) = true := by decide +kernel

theorem wit_SpecialRegisters :
    ((List.range 7).all fun k => let r : Reg := Fin.ofNat 32 k
      let s := stew false ab
      clear s ⟨256, some false, 3, none, Tm.core [], (Instr.mfsr 256 (.rr 1 r)).wf⟩ &&
      clear s ⟨256, some false, 3, none, Tm.core [2], (Instr.mtsr 256 (.rr r 2)).wf⟩ && readsAs s 256 2 (i8 7) &&
      readsAs (stew false [(2, nil)]) 256 2 nil && !isInt nil && !isPoison nil && decide ((curBank s 256).priv < 2)) = true := by
  decide +kernel
/-- R101: the moves to XA and XC write the register whatever the tag. -/
theorem test_mtsr_tag : got (.mtsr 256 (.rr 2 2)) (stew false [(2, nil)]) (fun t => (curBank t 256).xa) = some nil.pay := by decide +kernel

-- generic and list instructions

theorem test_tagr : got (.tagr 256 1 2) (stew false [(2, nil)]) (peekG · 256 1) = some (i8 0x90) := by decide +kernel
theorem test_tags : got (.tags 256 1 2 3) (stew false [(2, i8 5), (3, i8 0)]) (peekG · 256 1) = some (raw 5) := by decide +kernel
/-- R166: 1.5 + 2 with scale 1. -/
theorem test_addg_scaled : got (.addg 256 1 2 3) (stew false [(2, ⟨0x21, decPay 15⟩), (3, i8 2)]) (peekG · 256 1) =
    some ⟨0x21, decPay 35⟩ := by decide +kernel
theorem test_subg : got (.subg 256 1 2 3) (stew false ab) (peekG · 256 1) = some (i8 4) := by decide +kernel
theorem test_mulg : got (.mulg 256 1 2 3) (stew false ab) (peekG · 256 1) = some (i8 21) := by decide +kernel
/-- R167: CC 1 when a remainder was dropped. -/
theorem test_divg : got (.divg 256 1 2 3) (stew false ab) (fun t => (peekG t 256 1, (curBank t 256).cc)) = some (i8 2, 1) := by decide +kernel
theorem test_cmpg_scales : got (.cmpg 256 2 3) (stew false [(2, ⟨0x21, decPay 20⟩), (3, i8 2)]) (fun t => (curBank t 256).cc) = some 0 := by
  decide +kernel
theorem test_head_nil : got (.head 256 1 2) (stew false [(2, nil)]) (peekG · 256 1) = some nil := by decide +kernel

/-- A cell in memory, and a register that points to it. -/
def consAt : State := withMem (stew false [(2, ptr 4 false 0xF000001000), (3, i8 77)]) [(0xF000001000, i8 8), (0xF000001008, raw 9)]

theorem test_head : got (.head 256 1 2) consAt (peekG · 256 1) = some (i8 8) := by decide +kernel
theorem test_tail : got (.tail 256 1 2) consAt (peekG · 256 1) = some (raw 9) := by decide +kernel

theorem wit_TagMake :
    (let s := stew false [(2, i8 5), (3, i8 0x10)]
     clear s ⟨256, some false, 3, none, Tm.pipe [2, 3] [1], (Instr.tags 256 1 2 3).wf⟩ && readsAs s 256 2 (i8 5) &&
       readsAs s 256 3 (i8 0x10) && qualOk 1 0 && payOk 1 0 5 && decide ((curBank s 256).priv < 2)) = true := by decide +kernel

/-- Every region of DRAM and of the cell's own memory open to every privilege. -/
def openAll (s : State) : State :=
  { s with prot := { s.prot with
    epoch := 1
    actA := [(0, BitVec.ofNat 64 (2 ^ 63 + 0xFE00000000)), (1, BitVec.ofNat 64 (2 ^ 63))]
    actB := [(0, BitVec.ofNat 64 (0xFFFF * 2 ^ 40 + 0xFE00080000)), (1, BitVec.ofNat 64 (0xFFFF * 2 ^ 40 + 0x2000000000))] } }

/-- Lane 0 at User privilege. -/
def user (l : List (Nat × TWord)) : State :=
  let s := openAll (lane false l)
  setBank s 0 { curBank s 0 with ps := 0x80000 }

/-- Cell 0 has an allocation window for its core 0. -/
def withWindow (s : State) : State :=
  setCell s 0 { getCell s 0 with heap := [(8, 0xFE00002000), (9, 0xFE00003000)] }

def laneAb : State := withWindow (lane false ab)

theorem wit_TagMake_user :
    (let s := user [(2, i8 5), (3, i8 0x40)]
     clear s ⟨0, some false, 3, none, Tm.pipe [2, 3] [1], (Instr.tags 0 1 2 3).wf⟩ && readsAs s 0 2 (i8 5) &&
       readsAs s 0 3 (i8 0x40) && decide ((curBank s 0).priv = 2)) = true := by decide +kernel

def dec (scale v : Nat) : TWord := ⟨BitVec.ofNat 8 (0x20 + scale), decPay v⟩

/-- A FIX sum that overflows, a DEC product, and a FIX quotient. -/
theorem wit_GenericResult_word :
    (let ok (op : GOp) (i : Instr) (a b : TWord) (k : Nat) := let s := stew false [(2, a), (3, b)]
       let q := rrRun i 256 [2, 3]
       let u := opened s q
       clear s q && readsAs u 256 2 a && readsAs u 256 3 b && isAmount a && decide (resultClass (tagClass a) (tagClass b) = some k) &&
       okIs (amountOf u 256 1 a) fun x => okIs (amountOf u 256 2 b) fun y =>
         (op ≠ .div || y.v ≠ 0) && ((overflowInfo k (exactOf op x y).1).isNone || !teBit s 256 2)
     ok .add (.addg 256 1 2 3) (i8 (2 ^ 63 - 1)) (i8 1) 1 && ok .mul (.mulg 256 1 2 3) (dec 1 15) (dec 2 25) 2 &&
       ok .div (.divg 256 1 2 3) (i8 7) (i8 2) 1) = true := by decide +kernel

/-- An LDEC of value 12 at the operand's address. -/
def ldecAt (s : State) (a : Nat) : State :=
  { s with mem := wrBytes (wrBytes s.mem a 0x10 (slice (ldecObject ⟨12, 0⟩) 0 8)) (a + 8) 0 ((ldecObject ⟨12, 0⟩).drop 8) }

theorem wit_GenericResult_ldec :
    (let a := ptr 11 true 0xFE00001000
     let s := ldecAt (withWindow (lane false [(2, a), (3, i8 3)])) 0xF000001000
     let q := rrRun (.addg 0 1 2 3) 0 [2, 3]
     let u := opened s q
     clear s q && readsAs u 0 2 a && readsAs u 0 3 (i8 3) && isAmount a && decide (resultClass (tagClass a) 1 = some 11) &&
       okAny (ldecCheck u 0 1 a) && okAny (ldecCheck u 0 2 (i8 3)) && okAny (needFar u 0 (ldecRange a ++ ldecRange (i8 3))) &&
       okIs (amountOf u 0 1 a) (fun x => x.v = 12 && okIs (amountOf u 0 2 (i8 3)) fun y => y.v ≠ 0 && (overflowInfo 11 (exactOf .add x y).1).isNone) &&
       okAny (allocCheck u 0 48)) = true := by decide +kernel

theorem test_addg_ldec : got (.addg 0 1 2 3) (ldecAt (withWindow (lane false [(2, ptr 11 true 0xFE00001000), (3, i8 3)])) 0xF000001000)
    (fun t => (peekG t 0 1, rdBytes t.mem 0xF000002000 10)) = some (ptr 11 true 0xFE00002000, [1, 0, 0, 0, 0, 0, 0, 0, 0xC0, 0x15]) := by
  decide +kernel

def flt (n : Nat) : TWord := ⟨0x30, BitVec.ofNat 64 n⟩

/-- 1.0 and 2.0. -/
theorem wit_GenericResult_float :
    (let a := flt 0x3FF0000000000000
     let b := flt 0x4000000000000000
     let s := stew false [(2, a), (3, b)]
     let q := rrRun (.addg 256 1 2 3) 256 [2, 3]
     let u := opened s q
     let x := fltOperand (roundMode s 256) a
     let y := fltOperand (roundMode s 256) b
     let r := fpRes .add (roundMode s 256) x.val y.val
     clear s q && readsAs u 256 2 a && readsAs u 256 3 b && isAmount a && decide (resultClass 3 3 = some 3) && hasFp s &&
       (fpTrap s 256 (condOr (condOr x.cond y.cond) r.cond)).isNone) = true := by decide +kernel

theorem wit_GenericCompare :
    (let ok (a b : TWord) (p : State → Bool) := let s := stew false [(2, a), (3, b)]
       let q := rrRun (.cmpg 256 2 3) 256 [2, 3]
       clear s q && readsAs (opened s q) 256 2 a && readsAs (opened s q) 256 3 b && !isPoison a && !isPoison b && p (opened s q)
     ok (dec 1 20) (i8 2) (fun u => let all := cmpReads u 256 1 (dec 1 20) ++ cmpReads u 256 2 (i8 2)
       okAny (cmpCheck u 256 1 (dec 1 20) all) && okAny (cmpCheck u 256 2 (i8 2) all) && okAny (needFar u 256 all) &&
       okAny (amountOf u 256 1 (cmpObj u 256 (dec 1 20))) && okAny (amountOf u 256 2 (cmpObj u 256 (i8 2)))) &&
     ok ⟨0x20, 1⟩ nil (fun _ => tagClass ⟨0x20, 1⟩ = 2 && (decVal 1).isNone && okAny (decValid 2 nil)) &&
     ok (ptr 4 false 16) (ptr 5 false 16) (fun u => isPtr (ptr 4 false 16) && isPtr (ptr 5 false 16) && !eveOn u 256) &&
     ok ⟨0x71, 65⟩ ⟨0x71, 66⟩ (fun _ => tagClass ⟨0x71, 65⟩ = 7 && fld (⟨0x71, 65⟩ : TWord).tag 3 0 = 1) &&
     ok ⟨0x70, 1⟩ ⟨0x70, 2⟩ (fun _ => tagClass ⟨0x70, 1⟩ = 7 && fld (⟨0x70, 1⟩ : TWord).tag 3 0 = 0) &&
     ok nil nil (fun _ => tagClass nil = 9) &&
     ok (raw 1) (i8 1) (fun _ => tagClass (raw 1) = 0 && tagClass (i8 1) = 1)) = true := by decide +kernel

/-- R173: an LDEC object that has been forwarded compares where it is. -/
theorem test_cmpg_forwarded : got (.cmpg 0 2 3) (let s := ldecAt (lane false [(2, ptr 11 true 0xFE00000800), (3, i8 12)]) 0xF000001000
      withMem s [(0xF000000800, ptr 8 false 0xFE00001000)]) (fun t => (curBank t 0).cc) = some 0 := by decide +kernel

theorem wit_ListCells :
    (let s := laneAb
     let q := rrRun (.cons 0 1 2 3) 0 [2, 3]
     let u := opened s q
     clear s q && readsAs u 0 2 (i8 7) && readsAs u 0 3 (i8 3) && okAny (wordBarrier u 0 (i8 7) false) && okAny (allocCheck u 0 16)) = true ∧
    (let m : RMem := .ptr 2 8
     let s := consAt
     let q := ldpRun (.ldp 256 1 m) 256 m []
     let u := opened s q
     clear s q && okIs (eaReg u 256 1 false m) fun e => e.a % 8 = 0 && okAny (checkBytes u 256 .read 1 e.a 8) &&
       okAny (needFar u 256 [(e.a, 8)]) && tagClass (slotWord u 256 e.a) ≠ 8 && okAny (wordBarrier u 256 (slotWord u 256 e.a) false)) = true ∧
    (let s := stew false [(2, nil)]
     clear s (rrRun (.head 256 1 2) 256 [2]) && readsAs (opened s (rrRun (.head 256 1 2) 256 [2])) 256 2 nil) = true ∧
    (let s := consAt
     let q := rrRun (.tail 256 1 2) 256 [2]
     let u := opened s q
     let r := ptr 4 false 0xF000001000
     clear s q && readsAs u 256 2 r && tagClass r = 4 && okAny (baseBarrier u 256 (some r)) && okAny (checkBytes u 256 .read 1 0xF000001008 8) &&
       okAny (needFar u 256 [(0xF000001008, 8)]) && tagClass (slotWord u 256 0xF000001008) ≠ 8 &&
       okAny (wordBarrier u 256 (slotWord u 256 0xF000001008) false)) = true ∧
    (let m : RMem := .ptr 2 8
     let s := consAt
     let q := ldpRun (.stp 256 3 m) 256 m [3]
     let u := opened s q
     clear s q && readsAs u 256 3 (i8 77) && okIs (eaReg u 256 1 true m) fun e => e.a % 8 = 0 && okAny (checkBytes u 256 .write 1 e.a 8) &&
       okAny (wordBarrier u 256 (i8 77) false) && okAny (cardCheck u 256 (cardOf u 256 e.a (containerGen e.src) (i8 77)))) = true ∧
    (let s := consAt
     let q := rrRun (.seth 256 2 3) 256 [2] [3]
     let u := opened s q
     let r := ptr 4 false 0xF000001000
     clear s q && readsAs u 256 2 r && readsAs u 256 3 (i8 77) && tagClass r = 4 && !isImm r && okAny (baseBarrier u 256 (some r)) &&
       okAny (checkBytes u 256 .write 1 0xF000001000 8) && okAny (cardCheck u 256 (cardOf u 256 0xF000001000 (genOf r) (i8 77)))) = true := by
  decide +kernel

theorem test_cons : got (.cons 0 1 2 3) laneAb (fun t => (peekG t 0 1, rdWord t.mem 0xF000002008)) = some (⟨0x40, 0xFE00002000⟩, i8 3) := by
  decide +kernel
theorem test_sett : got (.sett 256 2 3) consAt (fun t => wholeWord t 256 0xF000001008) = some (i8 77) := by decide +kernel

-- loads and stores

/-- The address 0xF000001000 in G2, a word there, and a value in G3. -/
def memAt (sm : Bool) : State := withMem (stew sm [(2, ptr 5 false 0xF000001000), (3, i8 0x1122334455667788)]) [(0xF000001000, raw 0x0102030405060708)]

/-- The same in DRAM, on lane 0. -/
def farAt (l : List (Nat × Word)) : State := withMem (lane false ([(2, ptr 5 false 0x1000), (3, i8 5)] : List (Nat × TWord)))
  (l.map fun e => (e.1, ⟨0, e.2⟩))

theorem test_ld1 : got (.ld1 256 1 (.reg (.ptr 2 7))) (memAt false) (peekG · 256 1) = some (i8 8) := by decide +kernel
theorem test_ld2 : got (.ld2 256 1 (.reg (.ptr 2 6))) (memAt false) (peekG · 256 1) = some (i8 0x0708) := by decide +kernel
theorem test_ld4 : got (.ld4 256 1 (.sto ⟨.based, false, 2, 0, 0⟩)) (memAt true) (peekG · 256 1) = some (i8 0x01020304) := by decide +kernel
/-- R92: an unaligned LD8 gives RAW. -/
theorem test_ld8_unaligned : got (.ld8 256 1 (.reg (.ptr 2 1))) (memAt false) (peekG · 256 1) = some (raw 0x0203040506070800) := by decide +kernel
theorem test_st1 : got (.st1 256 3 (.sto ⟨.based, false, 2, 0, 1⟩)) (memAt true) (fun t => rdWord t.mem 0xF000001000) = some (raw 0x0188030405060708) := by
  decide +kernel
theorem test_st8_tag : got (.st8 256 3 (.sto ⟨.postInc, false, 2, 0, 0⟩)) (memAt true)
    (fun t => (rdWord t.mem 0xF000001000, peekG t 256 2)) = some (i8 0x1122334455667788, ptr 5 false 0xF000001008) := by decide +kernel

theorem wit_Loads :
    (let s := memAt false
     !isCtl 0xF000001000 && okAny (checkBytes s 256 .read 1 0xF000001000 8) && okAny (wordBarrier s 256 (wholeWord s 256 0xF000001000) true) &&
       okAny (checkBytes s 256 .read 1 0xF000001001 8) && okAny (wholeBytes s 256 0xF000001001 8) && okAny (wholeBytes s 256 0xF000001007 1)) = true ∧
    (([.reg (.ptr 2 0), .sto ⟨.postInc, false, 2, 0, 0⟩] : List Mem).all fun m => let s := memAt m.storage
     let q := rmRun (.ld8 256 1 m) 256 m .load [] [1]
     let u := opened s q
     clear s q && okIs (eaOf u 256 1 8 false m) fun e => !farHere u m e.a && okAny (checkBytes u 256 .read 1 e.a 8) &&
       okAny (needFar u 256 [(e.a, 8)]) && okAny (loadWord u 256 8 e.a)) = true ∧
    (let m : Mem := .reg (.ptr 2 0)
     let s := memAt false
     let q := rmRun (.ldf 256 1 m) 256 m .load [] [33]
     let u := opened s q
     clear s q && hasFp s && okIs (eaOf u 256 1 8 false m) fun e => !farHere u m e.a && okAny (checkBytes u 256 .read 1 e.a 8) &&
       okAny (needFar u 256 [(e.a, 8)]) && okAny (loadFlt u 256 e.a)) = true := by decide +kernel

theorem wit_Stores :
    (([.reg (.ptr 2 0), .reg (.ptr 2 1), .sto ⟨.preDec, false, 2, 0, 0⟩] : List Mem).all fun m => let s := memAt m.storage
     ([(1, .st1 256 3 m), (2, .st2 256 3 m), (4, .st4 256 3 m), (8, .st8 256 3 m)] : List (Nat × Instr)).all fun p =>
       let q := rmRun p.2 256 m .store [3] []
       let u := opened s q
       let w := i8 0x1122334455667788
       clear s q && readsAs u 256 3 w && okIs (eaOf u 256 1 p.1 true m) fun e =>
         (p.1 = 8 && e.a % 8 ≠ 0) || (okAny (storeReg p.1 e.a w) && !farHere u m e.a &&
           okAny (needFar u 256 [(e.a, p.1)]) && okAny (storeOut u 256 p.1 w e.a e.src))) = true ∧
    (let m : Mem := .reg (.ptr 2 0)
     let s := memAt false
     let q := rmRun (.stf 256 1 m) 256 m .store [33] []
     let u := opened s q
     clear s q && hasFp s && okIs (rdF u 256 1) (fun w => w = 0) && okIs (eaOf u 256 1 8 true m) fun e => e.a % 8 = 0 && !farHere u m e.a &&
       okAny (checkBytes u 256 .write 1 e.a 8)) = true ∧
    (let w : PWrite := ⟨0xF000001001, [1, 2, 3], 0, false⟩
     w.a < 0xFF00000000 && !touchesHeap w) = true := by decide +kernel

/-- A word of the block that may be stored, and one with a reserved bit. -/
theorem wit_HeapControl :
    heapAt 0xF000000040 = some (0, 8) ∧ heapOk 8 0x2000 = true ∧ (wordBytes 0x2000).length = 8 ∧
    beNat (wordBytes 0x2000) = 0x2000 ∧ heapOk 8 1 = false ∧ heapAt (0xEFFFFFFFFC + 4) = some (0, 0) ∧ heapAt 0xEFFFFFFFFC = none := by
  decide +kernel

theorem test_heap_store : got (.st8 256 3 (.reg (.long 0xF000000040))) (stew false [(3, i8 0x2000)])
    (fun t => (heapWord t 0 8, rdWord t.mem 0xF000000040, (getCore t 256).sb)) = some (0x2000, i8 0x2000, []) := by decide +kernel
/-- R179: a store that sets a reserved bit is refused and counted. -/
theorem test_heap_refused : got (.st8 256 3 (.reg (.long 0xF000000040))) (stew false [(3, i8 1)])
    (fun t => (heapWord t 0 8, tget 0 t.mgmt.ctr (0x4000 * 256 + 1))) = some (0, 1) := by decide +kernel

theorem wit_FarAccess_issue :
    (let m : Mem := .reg (.ptr 2 0)
     let s := farAt [(0x1000, 9)]
     let q := rmRun (.ld8 0 1 m) 0 m .load [] [1]
     let u := opened s q
     clear s q && okIs (eaOf u 0 1 8 false m) fun e => farHere u m e.a && okAny (loadWord u 0 8 e.a) &&
       farWords (getCore u 0) + wordSpan e.a 8 ≤ 32 && !barred u 0 (farFree (wordSpan e.a 8) (farStarts (getCore u 0)))) = true ∧
    (let m : Mem := .reg (.ptr 2 0)
     let s := user [(2, ptr 5 false 0x1000)]
     let s := { s with prot := { s.prot with keys := [(0, 0x18)] } }
     let q := rmRun (.ld8 0 1 m) 0 m .load [] [1]
     let u := opened s q
     clear s q && okIs (eaOf u 0 1 8 false m) fun e => farHere u m e.a && farWords (getCore u 0) + wordSpan e.a 8 ≤ 32 &&
       !barred u 0 (farFree (wordSpan e.a 8) (farStarts (getCore u 0))) && (match loadWord u 0 8 e.a with | .error (.exc _) => true | _ => false)) = true ∧
    (let m : Mem := .reg (.ptr 2 0)
     let s := farAt []
     let q := rmRun (.st8 0 3 m) 0 m .store [3] []
     let u := opened s q
     clear s q && readsAs u 0 3 (i8 5) && okIs (eaOf u 0 1 8 true m) fun e => okAny (storeReg 8 e.a (i8 5)) && farHere u m e.a &&
       farWords (getCore u 0) + wordSpan e.a 8 ≤ 32 && !barred u 0 (farFree (wordSpan e.a 8) (farStarts (getCore u 0))) &&
       okAny (storeOut u 0 8 (i8 5) e.a e.src)) = true ∧
    (let m : Mem := .reg (.ptr 2 0)
     let s := farAt []
     let q := rmRun (.ldf 0 1 m) 0 m .load [] [33]
     let r := rmRun (.stf 0 1 m) 0 m .store [33] []
     clear s q && clear s r && hasFp s && okIs (rdF (opened s r) 0 1) (fun w => w = 0) && okAny (loadFlt (opened s q) 0 0x1000) &&
       farWords (getCore (opened s q) 0) + wordSpan 0x1000 8 ≤ 32 && farWords (getCore (opened s r) 0) < 32 &&
       !barred (opened s q) 0 (farFree 1 (farStarts (getCore (opened s q) 0))) && !barred (opened s r) 0 (farFree 1 (farStarts (getCore (opened s r) 0))) &&
       okIs (eaOf (opened s q) 0 1 8 false m) (fun e => e.a = 0x1000 && farHere (opened s q) m e.a) && okIs (eaOf (opened s r) 0 1 8 true m) fun e => e.a % 8 = 0 && farHere (opened s r) m e.a && okAny (checkBytes (opened s r) 0 .write 1 e.a 8)) = true := by
  decide +kernel

theorem test_far_load : (got (.ld8 0 1 (.reg (.ptr 2 0))) (farAt [(0x1000, 9)]) fun t => (getCore t 0).verdict.isSome) = some true := by decide +kernel

/-- Lane 0 with a far access that awaits its verdict, and with one in flight. -/
def farWaiting : State := setCore (farAt [(0x1000, 9)]) 0
  { getCore (farAt [(0x1000, 9)]) 0 with verdict := some ⟨⟨.loadG 0 0 (some 1) 0x1000 8 (raw 9), 0, 1⟩, none, 0xFE00000403, 0, 0, false⟩ }
def farFlying (k : FarKind) : State := setCore (farAt [(0x1000, 9)]) 0 { getCore (farAt [(0x1000, 9)]) 0 with far := [⟨k, 0, 1⟩] }

theorem wit_FarAccess_events :
    (coreUp farWaiting 0 && (getCore farWaiting 0).running = some 0 && (getCtx farWaiting 0).level = 0) = true ∧
    coreUp (farFlying (.loadG 0 0 (some 1) 0x1000 8 (raw 9))) 0 = true ∧ coreUp (farFlying (.store ⟨0x1000, [1], 0, false⟩)) 0 = true ∧
    coreUp (farFlying (.heal (raw 9) none ⟨0x1000, [1], 0, false⟩)) 0 = true ∧ coreUp (farFlying (.loadG ownRec 0 (some 1) 0x1000 4 (raw 9))) 0 = true ∧
    coreUp (setCore live 256 { Core.reset with sb := [⟨0x1000, [1], 0, false⟩] }) 256 = true := by decide +kernel

theorem test_far_arrival : got (.farDataArrival 0 .clean) (farFlying (.loadG 0 0 (some 1) 0x1000 8 (raw 9))) (peekG · 0 1) = some (raw 9) := by decide +kernel
theorem test_far_poison : got (.farDataArrival 0 .double) (farFlying (.loadG 0 0 (some 1) 0x1000 8 (raw 9))) (peekG · 0 1) = some ⟨0xF4, 0x1000⟩ := by
  decide +kernel
/-- R163: a load of four bytes uses a word that meets the error as a value. -/
theorem test_far_poison_use : got (.farDataArrival 0 .double) (farFlying (.loadG 0 0 (some 1) 0x1000 4 (raw 9)))
    (fun t => ((getCore t 0).exc, (getCtx t 0).late)) = some (none, [(0, 0x1000, 640)]) := by decide +kernel
/-- R186: a heal finds its slot changed. -/
theorem test_heal_late : got (.farWriteAcknowledgement 0) (farFlying (.heal (raw 8) none ⟨0x1000, [1], 0, false⟩)) (fun t => rdByte t.mem 0x1000) =
    some 0 := by decide +kernel
theorem test_drain : got (.storeBufferDrain 256) (setCore live 256 { Core.reset with sb := [⟨0x1000, [1], 0, false⟩] }) (fun t => rdByte t.mem 0x1000) =
    some 1 := by decide +kernel

/-- Mask of G4 and G5 in G3; the words at 0xF000001020. -/
def multiAt (mask : Nat) : State := withMem (stew false [(2, ptr 5 false 0xF000001000), (3, i8 mask), (4, i8 44), (5, raw 55)])
  [(0xF000001020, i8 1), (0xF000001028, raw 2)]

theorem wit_MultipleMove :
    (([0, 0x30] : List Nat).all fun mask => let m : Mem := .reg (.ptr 2 0)
     let s := multiAt mask
     let q := multiRun (.ldm 256 3 m) 256 3 m []
     let r := multiRun (.stm 256 3 m) 256 3 m (stmSrcs s 256 3)
     readsAs s 256 3 (i8 mask) && okIs (maskOf m (i8 mask)) (· == mask) && clear s q && clear s r &&
       okIs (eaOf (opened s q) 256 1 8 false m) (fun e => e.a = 0xF000001000 && e.upd == none) && !maskBad true 3 m mask && !maskBad false 3 m mask &&
       okIs (eaOf (opened s r) 256 1 8 true m) (fun e => e.a = 0xF000001000) && !eveOn (opened s r) 256 && !bit (heapWord (opened s r) 64 0) 0 &&
       ([4, 5] : List Nat).all fun k => !isDram s (0xF000001000 + 8 * k) && !isCtl (0xF000001000 + 8 * k) &&
         okIs (loadWord (opened s q) 256 8 (0xF000001000 + 8 * k)) (· == wholeWord (opened s q) 256 (0xF000001000 + 8 * k)) &&
         okAny (checkBytes (opened s r) 256 .write 1 (0xF000001000 + 8 * k) 8) &&
         !touchesHeap ⟨physOf (cellOf 256) (0xF000001000 + 8 * k), wordBytes 0, 0, false⟩) = true := by decide +kernel

/-- The same in storage mode with a moving base, and in DRAM by lane 0. -/
theorem wit_MultipleMove_forms :
    (([(256, .sto ⟨.postInc, false, 2, 0, 0⟩, withMem (stew true [(2, ptr 5 false 0xF000001000), (3, i8 0x30), (4, i8 44), (5, raw 55)]) []),
       (256, .sto ⟨.preDec, false, 2, 0, 0⟩, withMem (stew true [(2, ptr 5 false 0xF000001000), (3, i8 0x30), (4, i8 44), (5, raw 55)]) []),
       (0, .reg (.ptr 2 0), lane false [(2, ptr 5 false 0x1000), (3, i8 0x30), (4, i8 44), (5, raw 55)])] : List (Nat × Mem × State)).all fun x =>
      let c := x.1
      let m := x.2.1
      let s := x.2.2
      let q := multiRun (.ldm c 3 m) c 3 m []
      let r := multiRun (.stm c 3 m) c 3 m (stmSrcs s c 3)
      readsAs s c 3 (i8 0x30) && okIs (maskOf m (i8 0x30)) (· == 0x30) && clear s q && clear s r && !maskBad true 3 m 0x30 && !maskBad false 3 m 0x30 &&
      okIs (eaOf (opened s q) c 1 8 false m) (fun e => e.a % 8 = 0 && ([4, 5] : List Nat).all fun k => isDram s (e.a + 8 * k) == (c == 0) &&
        !isCtl (e.a + 8 * k) && okIs (loadWord (opened s q) c 8 (e.a + 8 * k)) (· == wholeWord (opened s q) c (e.a + 8 * k))) &&
      okIs (eaOf (opened s r) c 1 8 true m) fun e => ([4, 5] : List Reg).all fun k => okAny (wordBarrier (opened s r) c (peekG s c k) false) &&
        (cardOf (opened s r) c (e.a + 8 * k.val) (containerGen e.src) (peekG s c k)).isNone &&
        okAny (checkBytes (opened s r) c .write 1 (e.a + 8 * k.val) 8) &&
        !touchesHeap ⟨physOf (cellOf c) (e.a + 8 * k.val), wordBytes 0, 0, false⟩) = true := by decide +kernel
theorem test_ldm_far : got (.ldm 0 3 (.reg (.ptr 2 0))) (lane false [(2, ptr 5 false 0x1000), (3, i8 0x30)])
    (fun t => ((getCore t 0).far.length, bit (curBank t 0).pend 4, bit (curBank t 0).pend 5)) = some (2, true, true) := by decide +kernel

theorem test_ldm : got (.ldm 256 3 (.reg (.ptr 2 0))) (multiAt 0x30) (fun t => (peekG t 256 4, peekG t 256 5, peekG t 256 3)) =
    some (i8 1, raw 2, i8 0) := by decide +kernel
theorem test_stm : got (.stm 256 3 (.reg (.ptr 2 0))) (multiAt 0x30) (fun t => (rdWord t.mem 0xF000001020, rdWord t.mem 0xF000001028)) =
    some (i8 44, raw 55) := by decide +kernel

-- decimal instructions

/-- Packed fields 123- at 0xF000001000 and 45+ at 0xF000001010, storage mode, with pointers to them in G2 and G3. -/
def packAt (te : Word) (b : Word) : State :=
  setTe (withMem (stew true [(2, ptr 5 false 0xF000001000), (3, ptr 5 false 0xF000001010)])
    [(0xF000001000, raw 0x0000123D00000000), (0xF000001010, ⟨0, b⟩), (0xF000001020, raw 0x0000456C00000000)]) 256 te

def f1 : Mem := .sto ⟨.based, false, 2, 0, 0⟩
def f2 : Mem := .sto ⟨.based, false, 3, 0, 0⟩
def f3 : Mem := .sto ⟨.based, false, 2, 0, 0x20⟩
def plus45 : Word := 0x045C000000000000

/-- R204: -123 + 45 = -78, CC 1. -/
theorem test_dadd : got (.dadd 256 (.mm 4 2 f1 f2)) (packAt 0 plus45) (fun t => (rdBytes t.mem 0xF000001000 4, (curBank t 256).cc)) =
    some ([0, 0, 0x07, 0x8D], 1) := by decide +kernel
theorem test_dsub : got (.dsub 256 (.mm 4 2 f1 f2)) (packAt 0 plus45) (fun t => rdBytes t.mem 0xF000001000 4) = some [0, 0, 0x16, 0x8D] := by
  decide +kernel
theorem test_dmul : got (.dmul 256 (.mm 4 2 f1 f2) 1) (packAt 0 plus45) (fun t => rdBytes t.mem 0xF000001000 4) = some [0, 0x05, 0x53, 0x5D] := by
  decide +kernel
/-- R208: quotient -2 in two bytes, remainder -33 in two. -/
theorem test_ddiv : got (.ddiv 256 (.mm 4 2 f1 f2) 1) (packAt 0 plus45) (fun t => rdBytes t.mem 0xF000001000 4) = some [0, 0x2D, 0x03, 0x3D] := by
  decide +kernel
theorem test_dcmp : got (.dcmp 256 (.mm 4 2 f1 f2)) (packAt 0 plus45) (fun t => (curBank t 256).cc) = some 1 := by decide +kernel
theorem test_dadd_three : got (.dadd 256 (.mmm 4 4 2 f1 f3 f2)) (packAt 0 plus45) (fun t => rdBytes t.mem 0xF000001000 4) =
    some [0, 0, 0x50, 0x1C] := by decide +kernel
theorem test_pack : got (.pack 256 2 3 f1 f2) (packAt 0 0x3132C30000000000) (fun t => rdBytes t.mem 0xF000001000 2) = some [0x12, 0x3C] := by
  decide +kernel
theorem test_unpk : got (.unpk 256 3 2 f1 f2) (packAt 0 plus45) (fun t => rdBytes t.mem 0xF000001000 3) = some [0x30, 0x34, 0xC5] := by
  decide +kernel
/-- R195: 45 in one declet is x045. -/
theorem test_cvpd : got (.cvpd 256 2 2 f1 f2) (packAt 0 plus45) (fun t => rdBytes t.mem 0xF000001000 2) = some [0xC0, 0x45] := by decide +kernel
theorem test_cvdp : got (.cvdp 256 2 2 f1 f2) (packAt 0 0xC045000000000000) (fun t => rdBytes t.mem 0xF000001000 2) = some [0x04, 0x5C] := by
  decide +kernel
/-- R203: one digit to the right, rounded up at 5. -/
theorem test_dsrd : got (.dsrd 256 2 (-1) 5 f2) (packAt 0 plus45) (fun t => rdBytes t.mem 0xF000001010 2) = some [0x00, 0x5C] := by decide +kernel
theorem test_lda_sta : got (.lda 256 1 0 2 f2) (packAt 0 plus45) (fun t => got (.sta 256 1 0 2 f1) t fun v => rdBytes v.mem 0xF000001000 2) =
    some (some [0x04, 0x5C]) := by decide +kernel

theorem wit_DecimalFormats : fmtLenOk .packed 32 = true ∧ fmtLenOk .packed 33 = false ∧ fmtLenOk .zoned 1 = true ∧ fmtLenOk .declets 5 = true ∧ fmtLenOk .declets 4 = false := by
  decide +kernel

theorem wit_DecimalArithmetic :
    (([(.add, .dadd 256 (.mm 4 2 f1 f2)), (.sub, .dsub 256 (.mm 4 2 f1 f2)), (.mul, .dmul 256 (.mm 4 2 f1 f2) 1),
      (.div, .ddiv 256 (.mm 4 2 f1 f2) 1), (.cmp, .dcmp 256 (.mm 4 2 f1 f2))] : List (DOp × Instr)).all fun p =>
      ([plus45, 0x000C000000000000] : List Word).all fun w =>
        let s := packAt 0 w
        let q := decRunOf p.2 256 p.1 (.mm 4 2 f1 f2)
        let u := opened s q
        let o1 : Opd := ⟨1, .packed, 4, f1, if p.1 = .cmp then .read else .both⟩
        let o2 : Opd := ⟨2, .packed, 2, f2, .read⟩
        clear s q && !teBit s 256 4 && okIs (opdCheck u 256 [o1, o2]) fun es => es.length = 2 &&
          okIs (opdVal u 256 o1 (es.getD 0 ⟨0, none, none⟩)) fun a => okIs (opdVal u 256 o2 (es.getD 1 ⟨0, none, none⟩)) fun b =>
            p.1 = .cmp || (p.1 = .div && b = 0) ||
            okAny (decResult u 256 .packed (if p.1 = .div then 2 else 4) 0xF000001000
              (match p.1 with | .add => a + b | .sub => a - b | .mul => a * b | _ => a.tdiv b))) = true := by decide +kernel

theorem wit_DecimalArithmetic_other :
    (([(.add, .dadd 256 (.mmm 4 4 2 f1 f3 f2)), (.div, .ddiv 256 (.mmm 4 4 2 f1 f3 f2) 1)] : List (DOp × Instr)).all fun p =>
      let s := packAt 0 plus45
      let q := decRunOf p.2 256 p.1 (.mmm 4 4 2 f1 f3 f2)
      let u := opened s q
      clear s q && !isLongForm p.1 (.mmm 4 4 2 f1 f3 f2) &&
        okIs (opdCheck u 256 [⟨1, .packed, 4, f1, .write⟩, ⟨2, .packed, 4, f3, .read⟩, ⟨3, .packed, 2, f2, .read⟩]) (fun es => es.length = 3 &&
          okIs (opdVal u 256 ⟨2, .packed, 4, f3, .read⟩ (es.getD 1 ⟨0, none, none⟩)) (fun a => a = 456) &&
          okIs (opdVal u 256 ⟨3, .packed, 2, f2, .read⟩ (es.getD 2 ⟨0, none, none⟩)) fun b => b = 45) &&
        okAny (decResult u 256 .packed 4 0xF000001000 501)) = true ∧
    (([(.add, .dadd 256 (.aa 0 1)), (.div, .ddiv 256 (.aa 0 1) 1), (.cmp, .dcmp 256 (.aa 0 1))] : List (DOp × Instr)).all fun p =>
      let s := stew false []
      let q := decRunOf p.2 256 p.1 (.aa 0 1)
      clear s q && rdA s 256 1 = 0 && !teBit s 256 4 && okAny (accResult (opened s q) 256 0 0)) = true := by decide +kernel

theorem wit_DecimalMove :
    (let s := packAt 0 plus45
     let q := amRun (.lda 256 1 0 2 f2) 256 0 2 f2
     let r := amRun (.sta 256 1 0 2 f1) 256 0 2 f1
     let o : Opd := ⟨1, fmtOf 0, 2, f2, .read⟩
     clear s q && okIs (opdCheck (opened s q) 256 [o]) (fun es => es.length = 1 && okIs (opdVal (opened s q) 256 o (es.getD 0 ⟨0, none, none⟩)) (fun x => x = 45)) &&
       okAny (accResult (opened s q) 256 1 45) && clear s r && okIs (opdCheck (opened s r) 256 [⟨1, fmtOf 0, 2, f1, .write⟩]) (fun es => es.length = 1) &&
       okAny (decResult (opened s r) 256 (fmtOf 0) 2 0xF000001000 (rdA s 256 1))) = true ∧
    (let s := packAt 0 plus45
     let q : Run := ⟨256, some true, 4 + memBytes f2, dsrdUnd 2 (-1) 5 f2, Tm.core (memSrcs f2), (Instr.dsrd 256 2 (-1) 5 f2).wf⟩
     let o : Opd := ⟨1, .packed, 2, f2, .both⟩
     clear s q && okIs (opdCheck (opened s q) 256 [o]) (fun es => es.length = 1 && okAny (opdVal (opened s q) 256 o (es.getD 0 ⟨0, none, none⟩))) &&
       okAny (decResult (opened s q) 256 .packed 2 0xF000001010 5)) = true ∧
    (let s := packAt 0 plus45
     let q := cvRun (.cvpd 256 2 2 f1 f2) 256 .cvpd 2 2 f1 f2
     let o2 : Opd := ⟨2, .packed, 2, f2, .read⟩
     clear s q && okIs (opdCheck (opened s q) 256 [⟨1, .declets, 2, f1, .write⟩, o2]) (fun es => es.length = 2 &&
       okAny (opdVal (opened s q) 256 o2 (es.getD 1 ⟨0, none, none⟩))) && okAny (decResult (opened s q) 256 .declets 2 0xF000001000 45)) = true := by
  decide +kernel

-- strings and units of operation

/-- Length 4 in G1, addresses in G2 and G3, text and a table. -/
def textAt (a b n : Nat) : State := withMem (stew false [(1, i8 n), (2, ptr 5 false a), (3, ptr 5 false b)])
  [(0xF000001000, raw 0x4142434445464748), (0xF000001010, raw 0x4142583100000000), (0xF000001100, raw 0), (0xF000001140, raw 0x0061620000000000)]

def str : StrForm := .reg 1 2 3

/-- R222: an overlapping move downwards keeps the source's bytes. -/
theorem test_movs_overlap : got (.movs 256 str 64) (textAt 0xF000001001 0xF000001000 4) (fun t => (rdBytes t.mem 0xF000001000 6, peekG t 256 1)) =
    some ([0x41, 0x41, 0x42, 0x43, 0x44, 0x46], i8 0) := by decide +kernel
theorem test_cmps : got (.cmps 256 str 64) (textAt 0xF000001000 0xF000001010 4) (fun t => ((curBank t 256).cc, peekG t 256 1)) = some (1, i8 2) := by
  decide +kernel
/-- R225: A and B through the table at 0xF000001100. -/
theorem test_trns : got (.trns 256 str 64) (textAt 0xF000001000 0xF000001100 2) (fun t => rdBytes t.mem 0xF000001000 3) = some [0x61, 0x62, 0x43] := by
  decide +kernel
theorem test_scan : got (.scan 256 str 64) (textAt 0xF000001000 0xF000001100 4) (fun t => ((curBank t 256).cc, (curBank t 256).ct)) = some (1, 0x61) := by
  decide +kernel
theorem test_movp : got (.movp 256 4 2 0x20 (.reg (.ptr 2 0)) (.reg (.ptr 3 0))) (textAt 0xF000001000 0xF000001010 4)
    (fun t => (rdBytes t.mem 0xF000001000 5, (curBank t 256).cc)) = some ([0x41, 0x42, 0x20, 0x20, 0x45], 2) := by decide +kernel

theorem wit_UnitBoundary :
    (let s := textAt 0xF000001000 0xF000001010 200
     let q := strRun (.movs 256 str 1) 256 str
     clear s q && (unitsDone s 256).isNone && okIs (movsUnit 256 str (movsDesc 256 str (opened s q)) 0 (opened s q)) fun o => !o.fin) = true ∧
    (let s := textAt 0xF000001000 0xF000001010 4
     ([(strRun (.movs 256 str 1) 256 str, movsUnit 256 str (movsDesc 256 str (opened s (strRun (.movs 256 str 1) 256 str)))), (strRun (.cmps 256 str 1) 256 str, cmpsUnit 256 str),
       (strRun (.trns 256 str 1) 256 str, trnsUnit 256 str), (strRun (.scan 256 str 1) 256 str, scanUnit 256 str)] :
       List (Run × (Nat → State → Except Stop UnitOut))).all fun p => clear s p.1 && (unitsDone s 256).isNone && okIs (p.2 0 (opened s p.1)) fun o => o.fin) = true ∧
    (let s := packAt 0 plus45
     let m1 : Mem := .sto ⟨.based, false, 2, 0, 0x200⟩
     let m2 : Mem := .sto ⟨.based, false, 3, 0, 0x100⟩
     let d := DForm.mmm 32 16 2 m1 m2 f2
     let s := withMem s [(0xF000001118, raw 0x000000000000012C)]
     let q := decRunOf (.dmul 256 d 1) 256 .mul d
     isLongForm .mul d && clear s q && (unitsDone s 256).isNone && okIs (longUnit 256 .mul 32 16 2 m1 m2 f2 0 (opened s q)) fun o => !o.fin) = true := by
  decide +kernel

/-- A picture of three forced digits at G2, and digits 045 at G3. -/
def editAt : State := withMem (stew true [(2, ptr 5 false 0xF000001000), (3, ptr 5 false 0xF000001010)])
  [(0xF000001000, raw 0x2A242E2C11111100), (0xF000001010, ⟨0, plus45⟩)]

theorem wit_UnitBoundary_edit :
    (([(false, .edit 256 7 2 f1 f2 1), (true, .edmk 256 7 2 f1 f2 1)] : List (Bool × Instr)).all fun p =>
      let q := editRun p.2 256 7 f1 f2
      let u := opened editAt q
      clear editAt q && (unitsDone editAt 256).isNone && okIs (eaOf u 256 1 7 true f1) (fun e => e.a = 0xF000001000) &&
        okIs (eaOf u 256 2 2 false f2) (fun e => e.a = 0xF000001010) &&
        okAny (editUnit 256 p.1 7 2 f1 f2 (edHeader u 256 7 f1) 0 u) &&
        (List.range 7).all fun k => !isDram u (0xF000001000 + k) && !isCtl (0xF000001000 + k) &&
          (heapAt (physOf (cellOf 256) (0xF000001000 + k))).isNone &&
          wholeByte u 256 (0xF000001000 + k) == rdByte u.mem (physOf (cellOf 256) (0xF000001000 + k))) = true := by decide +kernel

/-- A byte that is no field end, and one that begins a field with its sign. -/
theorem wit_UnitBoundary_byte :
    (let e : Ed := ⟨4, 0, 0, 0, 0, false, false, false, false, 0, [1, 2, 3, 4], [1, 2, 3, 4, 0x12, 0x17, 0x11], []⟩
     decide (e.p < e.pic.length ∧ e.pic.getD e.p 0 ≠ 0x17) &&
       (edAlign [0x0C, 0x5C] ({ e with p := 5 }.pic.set 5 1) (e.nb + 2).toNat 6).isSome) = true := by decide +kernel

/-- R230, R231: -1.50 with a float character: fill * to the float position, $ before the first digit, the minus sign. -/
theorem test_edmk_float : got (.edmk 256 10 2 f1 f2 1) (withMem (stew true [(2, ptr 5 false 0xF000001000), (3, ptr 5 false 0xF000001010)])
      [(0xF000001000, raw 0x2A242E2C12121113), (0xF000001008, raw 0x1015000000000000), (0xF000001010, raw 0x015D000000000000)])
    (fun t => (rdBytes t.mem 0xF000001000 10, (curBank t 256).ct, (curBank t 256).cc)) =
    some ([0x2A, 0x24, 0x2E, 0x2C, 0x2A, 0x24, 0x31, 0x2E, 0x35, 0x2D], 5, 1) := by decide +kernel

/-- Both directions of a move, a length of 0, and TRNS. -/
theorem wit_StringMoves :
    (([(0xF000001001, 0xF000001000, 4), (0xF000001000, 0xF000001004, 4), (0xF000001000, 0xF000001010, 0)] : List (Nat × Nat × Nat)).all fun p =>
      let s := textAt p.1 p.2.1 p.2.2
      let q := strRun (.movs 256 str 64) 256 str
      let u := opened s q
      clear s q && (unitsDone s 256).isNone && okIs (strIn u 256 str) fun o => o.1 = p.2.2 && okAny (strOperand u 256 str true 2 o.2.1) &&
        okAny (strOperand u 256 str false 3 o.2.2) && okAny (strNone str true o.2.1 o.2.2) &&
        (List.range o.1).all fun i => let d := strByte u 256 o.2.1 i
          let r := strByte u 256 o.2.2 i
          decide (d = p.1 + i ∧ r = p.2.1 + i) && byteOk u 256 .write d && byteOk u 256 .read r && !isPoison (wholeWord u 256 d) &&
          !isPoison (wholeWord u 256 r) && !isDram u d && !isDram u r && !isCtl d && !isCtl r && (heapAt (physOf (cellOf 256) d)).isNone) = true ∧
    (let s := textAt 0xF000001000 0xF000001100 2
     let q := strRun (.trns 256 str 64) 256 str
     let u := opened s q
     clear s q && okIs (strIn u 256 str) fun o => o.1 = 2 && okAny (strOperand u 256 str true 2 o.2.1) &&
       okAny (strOperand u 256 str false 3 o.2.2) && okAny (strLimit 2 o.2.1 2) &&
       (List.range 2).all fun i => let x := strByte u 256 o.2.1 i
         let y := strByte u 256 o.2.2 (wholeByte u 256 x).toNat
         byteOk u 256 .both x && byteOk u 256 .read y && !isDram u x && !isCtl x && tableNear u 256 y && !isPoison (wholeWord u 256 x) &&
         !isPoison (wholeWord u 256 y) && (heapAt x).isNone && decide (y ≠ 0xF000001000 ∧ y ≠ 0xF000001001)) = true ∧
    (let m1 : Mem := .reg (.ptr 2 0)
     let m2 : Mem := .reg (.ptr 3 0)
     let s := textAt 0xF000001000 0xF000001010 4
     let q : Run := ⟨256, some false, 4 + memBytes m1 + memBytes m2, specUnd (offIn m1 4) [m1, m2], Tm.core (memSrcs m1 ++ memSrcs m2),
       (Instr.movp 256 4 2 0x20 m1 m2).wf⟩
     let u := opened s q
     clear s q && okIs (eaOf u 256 1 4 true m1) (fun e1 => okIs (eaOf u 256 2 2 false m2) fun e2 => okAny (checkBytes u 256 .write 1 e1.a 4) &&
       okAny (checkBytes u 256 .read 2 e2.a 2) && decide ((dramWords u e2.a 2).length ≤ 24) && okAny (needFar u 256 [(e2.a, 2)]) && okAny (poisonFree u 256 e1.a 4) &&
       okAny (wholeBytes u 256 e2.a 2))) = true := by decide +kernel

theorem wit_StringSearch :
    (let s := textAt 0xF000001000 0xF000001010 4
     let q := strRun (.cmps 256 str 64) 256 str
     let u := opened s q
     clear s q && okIs (strIn u 256 str) fun o => o.1 = 4 && okAny (strOperand u 256 str false 2 o.2.1) &&
       okAny (strOperand u 256 str false 3 o.2.2) && okAny (strLimit 2 o.2.1 2) &&
       okAny (strLimit 3 o.2.2 2) && (List.range 4).all fun i => let x := strByte u 256 o.2.1 i
         let y := strByte u 256 o.2.2 i
         byteOk u 256 .read x && byteOk u 256 .read y && !isDram u x && !isDram u y && !isPoison (wholeWord u 256 x) &&
         !isPoison (wholeWord u 256 y) && (i ≥ 2 || wholeByte u 256 x = wholeByte u 256 y) && (i ≠ 2 || wholeByte u 256 x ≠ wholeByte u 256 y)) = true ∧
    (let s := textAt 0xF000001000 0xF000001100 4
     let q := strRun (.scan 256 str 64) 256 str
     let u := opened s q
     clear s q && okIs (strIn u 256 str) fun o => o.1 = 4 && okAny (strOperand u 256 str false 2 o.2.1) &&
       okAny (strOperand u 256 str false 3 o.2.2) && okAny (strLimit 2 o.2.1 0) &&
       (List.range 4).all fun i => let x := strByte u 256 o.2.1 i
         let y := strByte u 256 o.2.2 (wholeByte u 256 x).toNat
         byteOk u 256 .read x && byteOk u 256 .read y && !isDram u x && tableNear u 256 y && !isPoison (wholeWord u 256 x) &&
         !isPoison (wholeWord u 256 y) && (i ≠ 0 || wholeByte u 256 y ≠ 0)) = true := by decide +kernel

theorem test_edit : got (.edit 256 7 2 f1 f2 1) editAt (fun t => rdBytes t.mem 0xF000001000 7) = some [0x2A, 0x24, 0x2E, 0x2C, 0x30, 0x34, 0x35] := by decide +kernel
-- binary64

def setF (s : State) (c : Nat) (l : List (Nat × Word)) : State :=
  setCore s c { getCore s c with ownF := Vector.ofFn fun r => tget 0 l r.val }

/-- 3.0 in F2 and 2.0 in F3. -/
def fltAt : State := setF (stew false [(2, i8 7)]) 256 [(2, 0x4008000000000000), (3, 0x4000000000000000)]
def fff : FForm := .rr 1 2 3

theorem test_fadd : got (.fadd 256 fff) fltAt (fun t => (fRegs t 256)[1]) = some 0x4014000000000000 := by decide +kernel
theorem test_fsub : got (.fsub 256 fff) fltAt (fun t => (fRegs t 256)[1]) = some 0x3FF0000000000000 := by decide +kernel
theorem test_fmul : got (.fmul 256 fff) fltAt (fun t => (fRegs t 256)[1]) = some 0x4018000000000000 := by decide +kernel
theorem test_fdiv : got (.fdiv 256 fff) fltAt (fun t => (fRegs t 256)[1]) = some 0x3FF8000000000000 := by decide +kernel
/-- The square root of 2, to nearest even. -/
theorem test_fsqrt : got (.fsqrt 256 (.rr 1 3)) fltAt (fun t => (fRegs t 256)[1]) = some 0x3FF6A09E667F3BCD := by decide +kernel
theorem test_fcmp : got (.fcmp 256 fff) fltAt (fun t => (curBank t 256).cc) = some 2 := by decide +kernel
theorem test_fcvt : got (.fcvtToFix 256 (.rr 1 2)) fltAt (peekG · 256 1) = some (i8 3) ∧
    got (.fcvtToFloat 256 (.rr 1 2)) fltAt (fun t => (fRegs t 256)[1]) = some 0x401C000000000000 := by decide +kernel

theorem wit_BinaryFloat :
    (let s := fltAt
     ([(fAdd 0, fRunOf (.fadd 256 fff) 256 fff .fadd fun r => [32 + r.val]), (fSub 0, fRunOf (.fsub 256 fff) 256 fff .fadd fun r => [32 + r.val]),
       (fMul 0, fRunOf (.fmul 256 fff) 256 fff .fmul fun r => [32 + r.val]), (fDiv 0, fRunOf (.fdiv 256 fff) 256 fff .fdiv fun r => [32 + r.val])] :
       List ((Word → Word → FRes) × Run)).all fun p => clear s p.2 && roundMode s 256 = 0 &&
         okIs (fIn (opened s p.2) 256 fff) fun o => (fpTrap s 256 (p.1 o.a o.b).cond).isNone) = true ∧
    (let s := fltAt
     let q := fRunOf (.fcmp 256 fff) 256 fff .none fun _ => [64]
     clear s q && hasFp s && okIs (fIn (opened s q) 256 fff) fun o => (fpTrap s 256 (fCmp o.a o.b).2).isNone) = true ∧
    (let s := fltAt
     let f : UnForm := .rr 1 3
     let q := fUnRun (.fsqrt 256 f) 256 f .fdiv 32 32
     let r : Run := ⟨256, some false, 3, none, tmOf false true .none [32 + 3] [32 + 1], (Instr.fmov 256 1 3).wf⟩
     clear s q && clear s r && okIs (rdF (opened s q) 256 3) (fun x => x = 0x4000000000000000 && (fpTrap s 256 (fSqrt 0 x).cond).isNone) &&
       okAny (rdF (opened s r) 256 3)) = true ∧
    (let s := fltAt
     let f : UnForm := .rr 1 2
     let q := fUnRun (.fcvtToFix 256 f) 256 f .none 32 0
     let r := fUnRun (.fcvtToFloat 256 f) 256 f .none 0 32
     clear s q && clear s r && okIs (rdF (opened s q) 256 2) (fun x => (fpTrap s 256 (fToFix 0 x).cond).isNone) &&
       readsAs (opened s r) 256 2 (i8 7) && (fpTrap s 256 (fOfFix 0 7).cond).isNone) = true := by decide +kernel

-- control

theorem test_brc_taken : got (.brc 256 (.rel 8 (-4))) (stew false []) (fun t => (curBank t 256).ia) = some 0xF0000003FC := by decide +kernel
theorem test_brl : got (.brl 256 (.rel 16)) (stew false []) (fun t => ((curBank t 256).ia, peekG t 256 31)) = some (0xF000000410, ⟨0xA8, 0xF000000404⟩) := by
  decide +kernel
theorem test_bct : got (.bct 256 2 ⟨.based, false, 3, 0, 0⟩) (stew true [(2, i8 1), (3, ptr 10 true 0xF000000500)]) (fun t => peekG t 256 2) = some (i8 0) := by
  decide +kernel
/-- R108: MODE to storage mode. -/
theorem test_mode : got (.mode 256 false 1) (stew false []) (fun t => (curBank t 256).smode) = some true := by decide +kernel

theorem wit_ControlFlow :
    (let s := stew false [(2, ptr 10 true 0xF000000500)]
     clear s ⟨256, some false, 4, none, Tm.pipe [64] [], (Instr.brc 256 (.rel 8 (-4))).wf⟩ && bit (8 : BitVec 4) (3 - (curBank s 256).cc) &&
       clear s ⟨256, some false, 4, none, Tm.pipe [] [31], (Instr.brl 256 (.rel 16)).wf⟩ &&
       readsAs s 256 2 (ptr 10 true 0xF000000500) && tagClass (ptr 10 true 0xF000000500) = 10 &&
       clear s ⟨256, some false, 3, none, Tm.pipe [2] [], (Instr.jmp 256 2).wf⟩ && clear s ⟨256, some false, 3, none, Tm.pipe [2] [31], (Instr.jmpl 256 2).wf⟩) = true ∧
    (let m : SMem := ⟨.based, false, 3, 0, 0⟩
     let s := stew true [(2, i8 1), (3, ptr 10 true 0xF000000500)]
     ([(64 :: memSrcs (.sto m), .brc 256 (.sto 8 m)), (memSrcs (.sto m), .brl 256 (.sto 1 m)), (2 :: memSrcs (.sto m), .bct 256 2 m)] : List (List Nat × Instr)).all
       fun p => let q : Run := ⟨256, some true, 2 + memBytes (.sto m), memUnd 2 (.sto m), Tm.core p.1, p.2.wf⟩
         clear s q && readsAs (opened s q) 256 2 (i8 1) && okAny (targetSto (opened s q) 256 1 m) && okAny (targetSto (opened s q) 256 2 m)) = true ∧
    (let s := stew false []
     let q := sharedRun (.mode 256 false 1) 256 2 none []
     clear s q && (byteFail (opened s q) (whoOf (opened s q) 256) (.fetch true) 0xF000000402).isNone) = true ∧
    (let s := user []
     let s := { s with prot := { s.prot with actB := [(0, BitVec.ofNat 64 (0xEEEE * 2 ^ 40 + 0xFE00080000))] } }
     let q := sharedRun (.mode 0 false 1) 0 2 none []
     clear s q && (match byteFail (opened s q) (whoOf (opened s q) 0) (.fetch true) 0xFE00000402 with | some (6, _) => true | _ => false)) = true := by
  decide +kernel

/-- A transaction with a body of one CHAR item's word at the address in G2. -/
def endAt : State := withMem (lane false [(1, i8 5), (2, ptr 5 false 0xFE00001000), (3, i8 8)]) [(0xF000001000, raw 0)]

theorem wit_TransactionEnd :
    (([(none, .tcommit 0 2 3), (some 1, .tabort 0 1 2 3)] : List (Option Reg × Instr)).all fun p => let s := endAt
      let rs : List Reg := match p.1 with | none => [2, 3] | some r => [r, 2, 3]
      let q := sharedRun p.2 0 3 (if p.1 = none then sharedUnd s 0 [(2, 1), (3, 2)] else sharedUnd s 0 [(1, 1), (2, 1), (3, 2)]) (rs.map (·.val))
      let k := getCore s 0
      clear s q && (curBank s 0).priv ≠ 3 && k.running = some 0 && okAny (endChecks (opened s q) 0 2 3 p.1) &&
        startOf (opened s q) q + 16 ≤ k.freeAt / 500 + (getCtx s 0).bcnt) = true := by decide +kernel

theorem test_tcommit : got (.tcommit 0 2 3) (setBank endAt 0 { curBank endAt 0 with g := (curBank endAt 0).g.set 3 (i8 0) })
    (fun t => (t.jrn.path.map fun r => (r.status, r.body), (getCtx t 0).st)) = some ([(0, [])], .ending) := by decide +kernel

/-- Cell 0 is awake. -/
def awake (s : State) : State := setCell s 0 { getCell s 0 with cur := 0, off := false, rdy := true }

/-- A second context READY on lane 0. -/
def twoAt (dl : Nat) : State :=
  setCtx (awake (lane false [])) 1 { ctxOf false [] with st := .ready, dl := dl }

theorem wit_Switches :
    (([50, 200] : List Nat).all fun dl => let s := twoAt dl
      let q := sharedRun (.tyield 0) 0 1 none []
      clear s q && (getCore s 0).running = some 0 && nextReady s 0 (some 0) = some 1 && coreUp s 0 && (getCore s 0).verdict.isNone &&
        !stopDue s 0 && cellAwake s 0) = true ∧
    (let s := setCore (twoAt 50) 0 { getCore (twoAt 50) 0 with preempt := true }
     (getCore s 0).preempt && nextReady s 0 (some 0) = some 1 && coreUp s 0) = true ∧
    (let s := setCtx (awake live) 1 { Ctx.free with st := .ready, sel := { Sel.none with wcet := 9, entry := 0xFE00000400 } }
     coreUp s 0 && (getCore s 0).running.isNone && cellAwake s 0 && nextReady s 0 none = some 1 && !(getCtx s 1).started) = true := by decide +kernel

theorem test_yield : got (.tyield 0) (twoAt 50) (fun t => (getCore t 0).running) = some (some 1) := by decide +kernel

/-- A gate descriptor at the own address xFE00001000: TPRIV 2, LPRIV 3, one argument of class FIX, RMASK 1. -/
def gateAt : State :=
  let s := user [(2, ptr 10 true 0xFE00001000), (8, i8 5), (30, ptr 5 false 0xFE00040000)]
  let s := { s with prot := { s.prot with actA := [(0, BitVec.ofNat 64 (2 ^ 63 + 2 ^ 48 + 0xFE00000000))] } }
  withMem s [(0xF000001000, raw (2 ^ 63 + 2 * 2 ^ 61 + 3 * 2 ^ 59 + 2 ^ 48 + 2 ^ 40 + 0xFE00000800)), (0xF000001008, raw (2 * 2 ^ 48)), (0xF000001010, raw 0),
    (0xF000001018, raw 0)]

theorem wit_Levels_gate :
    (let s := gateAt
     let q := sharedRun (.gate 0 2) 0 3 (sharedUnd s 0 [(2, 1)]) (2 :: gateSrcs s 0 2)
     let u := opened s q
     let p (i : Nat) := (seeWord u 0 (0xFE00001000 + 8 * i)).pay
     let d : GateDesc := ⟨p 0, p 1, p 2, p 3⟩
     clear s q && readsAs s 0 2 (ptr 10 true 0xFE00001000) && gateReach u 0 0xFE00001000 && gdOk d && (curBank s 0).priv ≤ fld d.w0 60 59 &&
       (getCtx s 0).gates.length < s.adm.gdepth && okAny (argCheck u 0 d true (gdNarg d) 0) && okAny (argCheck u 0 d false (gdNarg d) 0) &&
       gdTpriv d = 2 && gatePasses d (curBank s 0) && !bit (curBank s 0).pend 30) = true := by decide +kernel

/-- GATE, then GRET at the gate level. -/
def gatedAt : State := (got (.gate 0 2) gateAt id).getD live

theorem test_gate : (getCtx gatedAt 0).gates.map (fun l => (l.link, l.bank.ia, l.rmask)) = [(0xFE00000403, 0xFE00000800, 1)] := by decide +kernel
theorem test_gret : got (.gret 0) gatedAt (fun t => ((curBank t 0).ia, (getCtx t 0).gates.length, peekG t 0 8)) = some (0xFE00000403, 0, i8 5) := by
  decide +kernel

/-- A context at its exception level, with a frame at xFE00003000. -/
def handlerAt : State :=
  let x := ctxOf false []
  withMem (setCtx (lane false []) 0 { x with exc := some ⟨bankOf 0xFE00000400 false [], 0xFE00003000, 0⟩ })
    [(0xF000003020, ptr 10 true 0xFE00000900), (0xF000003028, raw 0), (0xF000003030, raw 0), (0xF000003038, raw 0), (0xF000003040, raw 0xFE),
     (0xF000003088, i8 11)]

theorem wit_Levels_return :
    (let s := gatedAt
     let q := sharedRun (.gret 0) 0 1 none []
     clear s q && (getCtx s 0).level = (getCtx s 0).gates.length + 1 &&
       ((getCtx s 0).gates.all fun lv => lv.cPriv < 4 && (maskRegs lv).all fun r => !bit lv.bank.pend r.val)) = true ∧
    (let s := handlerAt
     let q := sharedRun (.gret 0) 0 1 none []
     let u := opened s q
     let f (i : Nat) := seeWord u 0 (0xFE00003000 + 8 * i)
     clear s q && (getCtx s 0).level = 1 && !(getCtx s 0).ovrp && tagClass (f 4) = 10 && frameSpr (f 5) 64 && frameSpr (f 6) 24 &&
       frameSpr (f 7) 10 && frameSpr (f 8) 12) = true := by decide +kernel

theorem test_gret_handler : got (.gret 0) handlerAt (fun t => ((curBank t 0).ia, peekG t 0 1)) = some (0xFE00000900, i8 11) := by decide +kernel

/-- A customer routine of one microword: G(rd) := G(ra) + G(rb). -/
def customAt (l : List (Nat × TWord)) (form : Nat) : State :=
  let s := stew false l
  { s with boot := { s.boot with
    custSel := [(1, BitVec.ofNat 64 (2 ^ 63 + form * 2 ^ 61 + 3 * 2 ^ 59 + 2 ^ 40 + 14336))]
    micro := [(14336, BitVec.ofNat 40 (3 * 2 ^ 38 + 3584 * 2 ^ 14))]
    nano := [(3584, BitVec.ofNat 160 (2 ^ 150 + 0x39 * 2 ^ 126 + 0x3A * 2 ^ 120 + 0x38 * 2 ^ 114 + 2 * 2 ^ 98 + 0x10 * 2 ^ 64))] } }

theorem wit_CustomRoutine :
    (let s := customAt ab 1
     let body : CustBody := .rrr 1 2 3
     let q : Run := ⟨256, none, custLen [] body, custUnd false [] body, Tm.core [] (custSrcs s 1 body), (Instr.cust 256 [] 1 body).wf && custWf [] body⟩
     let u := opened s q
     let e := tget 0 s.boot.custSel 1
     let w := tget 0 s.boot.micro (csEntry e)
     let n := tget 0 s.boot.nano (mwNano w)
     clear s q && hasFp s && csValid e && csForm e = custForm body && (curBank s 256).priv ≤ csLpriv e &&
       !anyPending u 256 (custSrcs u 1 body) && readsAs s 256 2 (i8 7) && readsAs s 256 3 (i8 3) &&
       okAny (microRun u 256 body none 2048 (csEntry e) 0 (MicroRun.start 0)) && mwSeq w = 3 && mwBsel w = 0 && mwWait w = 0 && nwItop n = 1 &&
       nwDcop n = 0 && nwFmop n = 0 && nwTrap n = 0 && nwSrca n = 0x39 && nwSrcb n = 0x3A && nwDest n = 0x38 && nwTsrc n = 0 && !nwCcw n && !nwFlg n) = true ∧
    (let s := customAt [(2, ptr 5 false 0xF000001000)] 2
     let y : Mem := .reg (.ptr 2 0)
     let body : CustBody := .rm 1 y
     let q : Run := ⟨256, some false, custLen [] body, custUnd false [] body, Tm.core (memSrcs y) (custSrcs s 1 body),
       (Instr.cust 256 [] 1 body).wf && custWf [] body⟩
     let u := opened s q
     clear s q && hasFp s && csValid (tget 0 s.boot.custSel 1) && csForm (tget 0 s.boot.custSel 1) = custForm body &&
       !anyPending u 256 (custSrcs u 1 body) && okIs (eaOf u 256 1 8 false y) fun a =>
         okAny (microRun u 256 body (some a) 2048 (csEntry (tget 0 s.boot.custSel 1)) 0 (MicroRun.start 0))) = true := by decide +kernel

theorem test_cust : got (.cust 256 [] 1 (.rrr 1 2 3)) (customAt ab 1) (peekG · 256 1) = some (i8 10) := by decide +kernel

-- instruction bytes

/-- The bytes of a sequence, as the decoder of register or storage mode reads them. -/
def spell (sm : Bool) (l : List Nat) : Spelled := decodeBytes 0 1 sm (l.map (BitVec.ofNat 8))

/-- The worked examples of chapter 04: REPI DADD, and the two pair words. -/
theorem test_spell_examples :
    spell false [0xF0, 0x50, 7, 7, 6, 0, 0, 0x40, 0x76, 0xB8, 0, 0] =
      .instr (.repi 0 (.dec .add (.mm 8 8 (.reg (.ptr 12 0x40)) (.reg (.ptrX 3 13 14 0)))) 1) ∧
    spell false [0x82, 0x32, 0x55, 0xC0] = .instr (.pairWord 0 false 0x823255C0) ∧
    spell false [0x82, 0x32, 0x54, 0x80] = .undefined 3 := by decide +kernel
/-- The decode coincidences of R151. -/
theorem test_spell_coincidences :
    spell false [0xF0, 0xF1, 0x50] = .undefined 1 ∧ spell false [0xF0, 0xF3, 0] = .undefined 1 ∧
    spell false [0xF3, 0xF2, 0] = .instr (.cust 0 [] 0xF2 .none) ∧ spell true [0xF2, 0x10] = .undefined 0 ∧
    spell false [0xF0, 0x43, 8, 1, 0, 0, 0] = .undefined 3 ∧ spell false [0xF0, 0x5A] = .undefined 1 ∧
    spell true [0x80] = .undefined 0 ∧ spell true [2, 20 * 8, 0] = .undefined 1 ∧ spell false [0xF2, 0x5A] = .undefined 1 := by
  decide +kernel
/-- Storage-mode words of R148 to R150. -/
theorem test_spell_storage :
    spell true [0x10, 0x12] = .instr (.add 0 (.sr 1 2)) ∧
    spell true [0x26, 0x30, 0x02, 0x00, 0x08] = .instr (.ld8 0 3 (.sto ⟨.based, false, 2, 0, 8⟩)) ∧
    spell true [0x60, 0x80, 0x31, 0x00, 0x04, 0x02] = .instr (.brc 0 (.sto 8 ⟨.indirect, true, 1, 0, 0x2004⟩)) ∧
    spell true [0x40, 3, 1, 0x42, 0x00, 0x10, 0x65, 0x00, 0x00] =
      .instr (.dadd 0 (.mm 4 2 (.sto ⟨.postInc, false, 2, 0, 16⟩) (.sto ⟨.preDec, false, 5, 0, 0⟩))) ∧
    spell true [0x20, 0x10, 0x40, 0x00, 0x00] = .undefined 2 ∧ spell true [0x20, 0x11, 0, 0, 0] = .undefined 1 := by decide +kernel
/-- Memory that nothing has written holds x00, which is undefined. -/
theorem wit_InstructionBytes :
    (let s := lane false []
     instrAt s 0 1 = .undefined 0 && coreReady s 0 none && !inAbort s 0 && (fetchFail s 0 1).isNone && (fetchLines s (curBank s 0).ia.toNat 1).isEmpty) = true ∧
    (∃ s i, instrAt s 256 1 = .instr i ∧ runNext 256 1 s = exec i s) := by
  refine ⟨by decide +kernel, withMem (stew false ab) [(0xF000000400, raw 0x1008860000000000)], .add 256 (.rr 1 2 3), by decide +kernel, ?_⟩
  rw [runNext, show instrAt (withMem (stew false ab) [(0xF000000400, raw 0x1008860000000000)]) 256 1 = .instr (.add 256 (.rr 1 2 3)) by decide +kernel]

-- pair words and repeated instructions

/-- ADD G2, G3 with MOV G4, G1: codes 2 and 1. -/
def addMov : BitVec 32 := BitVec.ofNat 32 (3 * 2 ^ 30 + (2 * 1024 + 2 * 32 + 3) * 2 ^ 15 + (1024 + 4 * 32 + 1))
/-- NOP with MUL's reserved code is no pair; ADD of a NIL fails in half 0, and in half 1. -/
def nopAdd : BitVec 32 := BitVec.ofNat 32 (3 * 2 ^ 30 + (2 * 1024 + 2 * 32 + 3))
def addNop : BitVec 32 := BitVec.ofNat 32 (3 * 2 ^ 30 + (2 * 1024 + 2 * 32 + 3) * 2 ^ 15)

theorem test_pair : got (.pairWord 256 false addMov) (stew false ab) (fun t => (peekG t 256 2, peekG t 256 4)) = some (i8 10, i8 9) := by decide +kernel

theorem wit_PairWords :
    (let s := stew false ab
     let a := shortOf (addMov.toNat / 2 ^ 15 % 2 ^ 15)
     let b := shortOf (addMov.toNat % 2 ^ 15)
     let q : Run := ⟨256, none, 4, pairUnd a b, pairTm a b, (Instr.pairWord 256 false addMov).wf⟩
     let u := opened s q
     clear s q && okIs (shortRun 256 a u u) (fun x => okIs (shortRun 256 b u x.s) fun y =>
       (emuStop u q ((emuLeft u 256).getD (x.emu + y.emu))).isNone) && readsAs s 256 2 (i8 7) && readsAs s 256 3 (i8 3)) = true ∧
    (([(addNop, false), (nopAdd, true)] : List (BitVec 32 × Bool)).all fun p => let s := lane false [(3, i8 1)]
     let a := shortOf (p.1.toNat / 2 ^ 15 % 2 ^ 15)
     let b := shortOf (p.1.toNat % 2 ^ 15)
     let q : Run := ⟨0, none, 4, pairUnd a b, pairTm a b, (Instr.pairWord 0 false p.1).wf⟩
     let u := opened s q
     clear s q && (match shortRun 0 a u u with
       | .error (.exc e) => !p.2 && (emuStop u q e.emu).isNone
       | .ok x => p.2 && (match shortRun 0 b u x.s with | .error (.exc e) => (emuStop u q e.emu).isNone | _ => false)
       | _ => false)) = true := by decide +kernel

/-- LD1 of G1 from the address in G2, repeated over three bytes. -/
def repAt : State := setBank (memAt false) 256 { curBank (memAt false) 256 with ct := 3 }
def repOp : RepOp := .ld 0 1 (.reg (.ptrX 0 2 4 0))
def repState : Nat → State
  | 0 => withMem (setBank (stew false [(2, ptr 5 false 0xF000001000), (4, i8 0)]) 256 { curBank (stew false [(2, ptr 5 false 0xF000001000), (4, i8 0)]) 256 with ct := 3 }) [(0xF000001000, raw 0x0102030000000000)]
  | n + 1 => match repOne 256 repOp (repState n) with | .ok r => r.s | .error _ => repState n

theorem wit_Repeat :
    (let s := repState 0
     let q := repRun (.repi 256 repOp 3) 256 repOp
     let r := repRun (.repu 256 repOp) 256 repOp
     clear s q && clear s r && okAny (repUnit s 256 repOp) && eventAfter s 256 (startOf s q) == none && decide (2 + 3 * (repMax s repOp + 1) ≤ 594) &&
       ((List.range 3).all fun i => (curBank (repState i) 256).ct ≠ 0 && okIs (repOne 256 repOp (repState i)) (fun x => x.s = repState (i + 1) && (emuCut none x.emu).isNone) &&
         okAny (repuCheck (repState i) 256 repOp 1 (repMems repOp))) && (curBank (repState 3) 256).ct = 0) = true := by decide +kernel

theorem test_repi : got (.repi 256 repOp 3) (repState 0) (fun t => (peekG t 256 1, (curBank t 256).ct)) = some (i8 3, 0) := by decide +kernel

-- events of a core

/-- A pending exception of lane 0, with a Supervisor stack. -/
def excAt (code : Nat) : State :=
  let s := openAll (lane false [(30, nil)])
  let s := setCtx s 0 { getCtx s 0 with ssp := ptr 5 false 0xFE00004000, slim := 0xFE00003000 }
  setCore s 0 { getCore s 0 with exc := some ⟨0xFE00000400, code, 0, 0, false, false⟩ }

theorem wit_ExceptionEntry :
    (([4, 0x1E] : List Nat).all fun code => let s := excAt code
      let x := getCtx s 0
      let p := stackPtr x (curBank s 0)
      coreUp s 0 && !(getCore s 0).preempt && (getCore s 0).verdict.isNone && !stopDue s 0 && (getCore s 0).running = some 0 && x.exc.isNone &&
        stackOk s 0 x p && decide (0xFE00000400 ≤ p.pay.toNat - 384)) = true := by decide +kernel

theorem test_exception_frame : got (.exceptionEntry 0) (excAt 4) (fun t => ((getCtx t 0).exc.map (·.frame), peekG t 0 30)) =
    some (some 0xFE00003E80, ptr 5 false 0xFE00003E80) := by decide +kernel
theorem test_exception_freeze : got (.exceptionEntry 0) (excAt 0x1E) (fun t => ((getCtx t 0).st, (getCtx t 0).freason)) = some (.frozen, 0x1E) := by
  decide +kernel

/-- Lane 0 waits for a pre-read with its budget used up. -/
def overAt : State :=
  let s := setCtx (lane false []) 0 { ctxOf false [] with bcnt := 0 }
  setCore s 0 { getCore s 0 with preWait := [0x200], waitAt := 0 }

theorem wit_BudgetEnd :
    (let s := overAt
     coreUp s 0 && (getCore s 0).running = some 0 && !(getCtx s 0).base.ovr && (getCore s 0).verdict.isNone && waitsAt s 0 0) = true ∧
    (let s := setBank (lane false []) 0 { curBank (lane false []) 0 with ps := 0x10000 }
     coreUp s 0 && (getCore s 0).running = some 0 && (getCtx s 0).base.ovr) = true := by decide +kernel

theorem test_overrun : got (.budgetOverrun 0) overAt (fun t => ((getCtx t 0).base.ovr, (getCtx t 0).win)) = some (true, 7600) := by decide +kernel

/-- Two bytes abandoned at 0x100: the second alone reached storage (R332). -/
theorem test_stop : got (.stop 0 [false, true])
    (let s := setBank (lane false []) 0 { curBank (lane false []) 0 with ps := 0x10000 }
     setCore s 0 { getCore s 0 with cut := some [(0x100, 7, 0x08), (0x101, 9, 0x08)] })
    (fun t => (rdByte t.mem 0x100, rdByte t.mem 0x101)) = some (rdByte live.mem 0x100, 9) := by decide +kernel

theorem wit_FarEvents :
    (let s := setCore (lane false []) 0 { getCore (lane false []) 0 with preWait := [0x200, 0x201] }
     coreUp s 0 && (getCore s 0).running = some 0 && !(([0x201] : List Nat).contains 0x200)) = true ∧
    (let s := setCore live 256 { Core.reset with fetchWait := [0x10] }
     coreUp s 256 && (getCore s 256).fetchWait ≠ [] && !inAbort s 256) = true ∧
    (let s := { live with mesh := [⟨0, 1, 5000⟩] }
     alive s && firstXfer s.mesh == some ⟨0, 1, 5000⟩) = true := by decide +kernel

-- the transaction engine

/-- Port 0 UP with an ACTIVE session of peer 5. -/
def port0 : Port := { Port.reset .g 0 with ls := .up, gen := 1, width := 4, session := 1, sstate := 3, credits := [999, 999, 999, 999] }
def sess0 : Session := { newSession 1 0 5 0 1 with st := 3 }
def onPort (s : State) : State := { setPort s 0 port0 with sessions := [sess0] }
/-- Ledger time runs and the ring is sealed. -/
def ready : State := onPort { live with
  time := { live.time with running := true, crystal := true }, prot := { live.prot with jsealOn := true }, jrn := { live.jrn with opened := true } }

def trq0 : Trq := ⟨5, 1, 2, 3, 0, [], 24, true, true, true⟩
def rq (st : RqState) (d : Decision) (x : Option Ctx) : Request := ⟨0, 1, 10, 0, trq0, st, true, d, x⟩
def withRq (s : State) (r : Request) : State := { s with adm := { s.adm with reqs := [r] } }
def accCtx : Ctx := { ctxOf false [] with st := .staging, relAt := 50 }

theorem wit_RequestPath :
    (alive ready && portUp ready 0) = true ∧
    (let s := withRq ready (rq .arrived .none none)
     (firstRq s.adm.reqs fun r => r.port = 0 && r.st = .arrived) == some (rq .arrived .none none) && trqOk trq0 &&
       !trqOk { trq0 with zeros := false } && decide (queueLen s 0 < 32)) = true ∧
    (let s := { ready with adm := { ready.adm with reqs := rq .arrived .none none :: List.replicate 32 (rq .queued .none none) } }
     decide (32 ≤ queueLen s 0)) = true ∧
    (let r := rq .queued .none none
     (firstRq (withRq ready r).adm.reqs fun r => r.st = .queued) == some r) = true ∧
    (let r := rq .decided (.accept 0) (some accCtx)
     (firstRq (withRq ready r).adm.reqs fun r => r.st = .decided) == some r) = true ∧
    (let r := rq .decided (.refuse 1 2) none
     (firstRq (withRq ready r).adm.reqs fun r => r.st = .decided) == some r) = true ∧
    (let r := { rq .released (.accept 0) none with inQueue := false }
     let s := withRq ready r
     decide (replyTo s 1 0 = .port 0) && canSend s 0 0 24 && (storeOf s 0).isNone && decide (s.now ≤ r.at' + 1600000) &&
       (nextAnswer s 0 fun d => (match d with | .accept _ | .dupDone .. | .dupFly => true | _ => false)) == some r) = true ∧
    (let r := { rq .released (.refuse 1 2) none with inQueue := false }
     let s := withRq ready r
     (nextAnswer s 0 fun d => (match d with | .refuse .. => true | _ => false)) == some r && canSend s 0 0 24) = true ∧
    (let s := { setPort ready 0 { port0 with squall := true } with now := 100000000 }
     alive s && (getPort s 0).squall && s.adm.reqs.isEmpty && decide ((inWindow (ledgerNow s) (getPort s 0).arrivals).length ≤ icap (getPort s 0) / 2)) = true := by
  decide +kernel

/-- R36, R42: the ACK leaves 1.6 µs after the stamp. -/
theorem test_ack : got (.ack 0) (withRq ready { rq .released (.accept 0) none with inQueue := false }) (fun t => (t.out, t.now)) =
    some ([.ack 0 5 1 10], 1600000) := by decide +kernel
theorem test_frame_dropped : got (.frameCheckComplete 0) (withRq ready { rq .arrived .none none with f := { trq0 with framed := false } })
    (fun t => t.adm.reqs) = some [] := by decide +kernel

/-- A selector of class 0, U mode, without records, and an OPEN gate from 0 to 1,000,000. -/
def sel0 : List Word := [0x8C0000FE00000400, 0x0000006400000000] ++ List.replicate 14 0
def gate0 : BitVec 256 := setFld (setFld 0 255 254 1) 127 64 1000000

theorem wit_CheckOrder :
    (deviceReady live = false ∧ deviceReady ready = true) ∧ pairAdmits ready = true ∧
    pairAdmits { ready with pair := { ready.pair with cfg := 0x8000000000000000 } } = false ∧
    (let s := { ready with adm := { ready.adm with sels := [(2, sel0)], pools := [(3, gate0)] } }
     decide (lookup s 5 1 = .go) && selValid (tget [] s.adm.sels 2) && decide (closeGuard (poolOf s 3) 10 = none) &&
       ownsPart s (pgPart (poolOf s 3))) = true := by decide +kernel

/-- R38: a request to an OPEN pool is accepted, or refused by the first failing check. -/
theorem test_checks :
    (let s := { awake ready with adm := { ready.adm with sels := [(2, sel0)], pools := [(3, gate0)] } }
     (checks live (rq .queued .none none) false).1 = .refuse 1 8 ∧ (checks ready (rq .queued .none none) true).1 = .refuse 1 2 ∧
     (checks ready (rq .queued .none none) false).1 = .refuse 4 1 ∧
     (checks s { rq .queued .none none with stamp := 1000000 } false).1 = .refuse 2 1) := by decide +kernel

/-- Lane 0 with a STAGING context of one record of 16 bytes. -/
def stgAt : State :=
  let s := awake live
  setCtx s 0 { ctxOf false [] with
    st := .staging, started := false, relAt := 1000000, sel := { Sel.none with nstg := 1, descs := [0x0100000000000000] },
    recBlks := [9], payload := zeros 8 }

theorem wit_Staging :
    (alive stgAt && cellAwake stgAt 0 && (getCore stgAt 0).stgFly.isNone &&
      (firstStaging stgAt 0 fun x => x.staged < x.sel.nstg).isSome) = true ∧
    (let s := setCore stgAt 0 { getCore stgAt 0 with stgFly := some ⟨0, 0, 5, false⟩ }
     decide ((getCore s 0).stgFly = some ⟨0, 0, 5, false⟩ ∧ (getCtx s 0).st = .staging ∧ (getCtx s 0).lane = 0)) = true ∧
    (let s := setCtx stgAt 0 { getCtx stgAt 0 with sel := Sel.none }
     (firstStaging s 0 fun x => x.sel.nstg = 0).isSome) = true := by decide +kernel

def rec0 : Rec := { Rec.blank 0 1 [] with orig := 5, serial := 1, tx := some ⟨5, 1, 0, 1, 10, 0⟩, readyAt := 40 }
def withPath (s : State) (r : Rec) : State := { s with jrn := { s.jrn with path := [r] } }
def withRing (s : State) (r : Rec) : State := { s with jrn := { s.jrn with ring := [r] } }
/-- The record written to the ring. -/
def rung0 : Rec := { rec0 with seq := 1, ready := true, ringDone := true, ringAt := 50 }

theorem wit_CommitPath :
    (let s := withPath ready rec0
     leastRec s.jrn.path (fun r => !r.ready) (·.readyAt) == some rec0) = true ∧
    (let r := { rec0 with ready := true }
     leastRec (withPath ready r).jrn.path (·.ready) (·.slot) == some r) = true ∧
    (let r := { rec0 with seq := 1, ready := true }
     leastRec (withRing ready r).jrn.ring (fun r => !r.ringDone) (·.ringAt) == some r &&
       decide (r.kind ≠ 0x13 ∧ ready.boot.retiring = false ∧ r.place < (jsealRange ready.prot.jseal).2 ∧ (recBytes r).length ≤ (jsealRange ready.prot.jseal).2)) = true ∧
    (let s := withRing ready rung0
     let m := trpOf rung0 ⟨5, 1, 0, 1, 10, 0⟩
     alive s && decide (pst s ≠ .fenced) && (storeOf s 0).isNone && nextTrp s 0 == some rung0 && (nextDup s 0).isNone &&
       decide (replyTo s 1 0 = .port 0) && canSend s 0 0 (40 + m.items.length) && decide (s.now ≤ trpDue rung0 ∧ (getPort s 0).trpEnd ≤ trpDue rung0 ∧ rung0.sent = false) &&
       decide (ledgerAt s (trpDue rung0 + wirePs (getPort s 0) (48 + m.items.length)) ≤ 10 + classBound (rung0.prog / 16384))) = true := by
  decide +kernel

theorem test_trp : got (.trp 0) (withRing ready rung0) (fun t => (t.out.length, t.now)) = some (1, 200050) := by decide +kernel

theorem wit_GateAndSelector :
    (let n := 3
     let e := poolAhead ready n
     let w := slotW ready (claimSlot ready)
     let v := setFld (setFld (setFld 0 255 254 1) 191 128 (w + 2000)) 127 64 (w + 3000)
     let new := pgNew v (bit e 247 && !(decide (pgState e = 0) && decide (pgState v = 1))) w
     alive ready && pgValid v && sysRoom ready (mkItem 0x8011 (beBytes 8 n ++ beBytes 8 w ++ beBytes 32 new.toNat)).length &&
       writesAllowed ready && canJournal ready && primaryFor ready (pgPart e) && pgAllowed ready n w e v && !pgValid (BitVec.allOnes 256)) = true ∧
    (let w := slotW ready (claimSlot ready)
     selOk ready.part.variant sel0 && sysRoom ready (mkItem 0x8012 (beBytes 8 2 ++ beBytes 8 w ++ sel0.flatMap wordBytes)).length &&
       writesAllowed ready && canJournal ready && !selOk ready.part.variant [] &&
       !writesAllowed { ready with pair := { ready.pair with st := .claim, cfg := setFld ready.pair.cfg 63 63 1 } }) = true ∧
    (let c : Change := ⟨some 3, none, gate0, [], 7⟩
     let d : Change := ⟨none, some 2, 0, sel0, 9⟩
     let s := { ready with adm := { ready.adm with changes := [d, c] } }
     s.adm.changes.foldl (fun (m : Option Change) c => match m with | some b => if c.w < b.w then some c else m | none => some c) none == some c) = true := by
  decide +kernel

theorem test_gate_change : got .poolGateChange { ready with adm := { ready.adm with changes := [⟨some 3, none, gate0, [], 7⟩] } }
    (fun t => (poolOf t 3, t.adm.changes)) = some (gate0, []) := by decide +kernel

/-- A drain session of port 0. -/
def drainAt0 : State := setPort (withRing ready rung0) 0 { port0 with pcfg := setFld port0.pcfg 38 38 1 }

theorem wit_Drain :
    (let s := drainAt0
     alive s && decide (pst s ≠ .fenced) && activeSession s 0 == some sess0 && sess0.store.isEmpty && bit (getPort s 0).pcfg 38 &&
       drainsStream s sess0 0 && ((s.jrn.ring.find? fun r => r.stream = 0 && r.seq = drainAt s sess0 0) == some rung0) &&
       decide (ownStream s = 0) && releasable s rung0 && s.jrn.halted.isNone && canSend s 0 1 (16 + (recBytes rung0).length)) = true ∧
    (let y := { sess0 with send0 := 4, jda0 := 1, top0 := 3 }
     let s := { drainAt0 with sessions := [y] }
     alive s && portUp s 0 && activeSession s 0 == some y && decide (jdaOf y 0 < 2 ∧ 2 ≤ topOf y 0 ∧ topOf y 0 < 4 ∧ 2 < drainAt s y 0 ∧ drainAt s y 0 ≤ 9 ∧
       s.boot.debugRec = [] ∧ s.pair.soloOwed = false ∧ s.pair.rejoinOwed = false)) = true ∧
    (let y := { sess0 with send0 := 3, jda0 := 1, top0 := 3 }
     drainAt { drainAt0 with sessions := [y] } y 0 = 3 ∧ 3 ≤ topOf y 0 ∧ drainAt { drainAt0 with sessions := [sess0] } sess0 0 > topOf sess0 0) := by
  decide +kernel

theorem test_jda : got (.jda 0 2 0 true) { drainAt0 with sessions := [{ sess0 with send0 := 4, jda0 := 1, top0 := 3 }] }
    (fun t => t.sessions.map (·.jda0)) = some [2] := by decide +kernel

-- the Tranil ports

def atLink (ls : LState) : State :=
  let x := Port.reset .g 0
  setPort live 0 { x with ls := ls, train := x.pcfg }

theorem wit_Training :
    (let s := atLink .detect
     portsRun s && portExists s 0 && bit (getPort s 0).pcfg 29 && decide ((getPort s 0).ls = .detect)) = true ∧
    (let s := atLink .negotiate
     let x := getPort s 0
     portsRun s && decide (x.ls = .negotiate) && bit x.train 35 && bit x.train 32 && bit (7 : BitVec 3) 2) = true ∧
    (let s := setPort live 0 { Port.reset .g 0 with ls := .equalize, gen := 3, common := [2, 1] }
     portsRun s && decide ((getPort s 0).common = 2 :: [1] ∧ (getPort (atLink .equalize) 0).common = [])) = true ∧
    (portsRun (atLink .align) && decide ((getPort (atLink .align) 0).ls = .align ∧ (getPort (atLink .align) 0).waiting = [] ∧
      (getPort (atLink .align) 0).mnts = [] ∧ live.boot.serving = none)) = true := by decide +kernel

/-- R387: the highest common generation, the widest width whose lanes completed. -/
theorem test_negotiate : got (.negotiateComplete 0 3 7 3 true 5) (atLink .negotiate)
    (fun t => ((getPort t 0).gen, (getPort t 0).width, (getPort t 0).ls)) = some (2, 2, .equalize) := by decide +kernel
/-- A control flit's header that acknowledges nothing and returns a credit of channel 3. -/
def plain : FlitHdr := ⟨0, 0, false, 1⟩
theorem test_init : got (.init plain 7 8 9 10) (atLink .align) (fun t => ((getPort t 0).ls, (getPort t 0).credits)) =
    some (.up, [7, 8, 9, 11]) := by decide +kernel

def recovering : State := setPort ready 0 { port0 with ls := .recover, recoverAt := 0, replay := [⟨4, 3, 0, none⟩] }
def parked : State := { ready with sessions := [{ sess0 with st := 4, parkedAt := 20 }] }

theorem wit_LockLoss :
    (portsRun ready && decide ((getPort ready 0).ls = .up)) = true ∧
    (let s := recovering
     portsRun s && decide ((getPort s 0).ls = .recover ∧ s.now < 10000000 ∧ (getPort s 0).replay = ⟨4, 3, 0, none⟩ :: []) &&
       ((s.sessions.find? fun z => z.id = (getPort s 0).session) == some sess0)) = true ∧
    (parked.phase = .running ∧ (parked.sessions.find? fun y => y.id = (1 : BitVec 32).toNat && y.st = 4).isSome = true) ∧
    (let s := setPort ready 0 { port0 with idleAsked := true, idleHeard := true }
     portsRun s && decide ((getPort s 0).ls = .up ∧ (addCredits (ackFlits (getPort s 0) plain.aseq) plain.credit).replay = [] ∧ plain.nak = false ∧
       (getPort s 0).waiting = [] ∧ (getPort s 0).mnts = [] ∧ s.boot.serving = none)) = true ∧
    (let s := setPort live 8 { Port.reset .g 8 with ls := .up }
     portsRun s && !joined s) = true ∧
    (let s := setPort ready 0 { port0 with idle := true }
     portsRun s && (getPort s 0).idle && decide (s.pwr.cur = 0)) = true := by decide +kernel

theorem test_relock : got (.relock 0) recovering (fun t => ((getPort t 0).ls, t.out.getLast?)) = some (.up, some (.replay 0 4)) := by
  decide +kernel
theorem test_park : got (.recoverTimeout 0) recovering (fun t => (t.sessions.map (·.st), (getPort t 0).ls)) = some ([4], .detect) := by
  decide +kernel

/-- A data flit of zeros with its check. -/
def flit0 : List Byte := zeros 252 ++ beBytes 4 0x67E65321

theorem flit0_crc : crc32c (zeros 252) = 0x67E65321 := by
  have h : zeros 252 = zeros 28 ++ (zeros 28 ++ (zeros 28 ++ (zeros 28 ++ (zeros 28 ++ (zeros 28 ++ (zeros 28 ++ (zeros 28 ++ zeros 28))))))) := by
    decide +kernel
  rw [crc32c, h]
  simp only [List.foldl_append]
  rw [show (zeros 28).foldl crcByte 0xFFFFFFFF = 0x08363896 by decide +kernel, show (zeros 28).foldl crcByte 0x08363896 = 0xeab83561 by decide +kernel,
    show (zeros 28).foldl crcByte 0xeab83561 = 0x0c286c65 by decide +kernel, show (zeros 28).foldl crcByte 0x0c286c65 = 0x9706f904 by decide +kernel,
    show (zeros 28).foldl crcByte 0x9706f904 = 0xfeb0f5e2 by decide +kernel, show (zeros 28).foldl crcByte 0xfeb0f5e2 = 0xa4fd1cef by decide +kernel,
    show (zeros 28).foldl crcByte 0xa4fd1cef = 0x4c6f0136 by decide +kernel, show (zeros 28).foldl crcByte 0x4c6f0136 = 0xb7050ee9 by decide +kernel,
    show (zeros 28).foldl crcByte 0xb7050ee9 = 0x9819acde by decide +kernel]
  rfl

theorem flit0_ok : flitOk flit0 = true := by
  rw [flitOk, show flit0.take 252 = zeros 252 by decide +kernel, flit0_crc]
  decide +kernel

theorem wit_Flits_data : flitLost port0 true flit0 = false ∧ flNak flit0 = false ∧ flSeq flit0 = 0 ∧
    flitLost { port0 with gen := 3 } true flit0 = true := by
  unfold flitLost
  rw [flit0_ok]
  decide +kernel

theorem wit_Flits :
    (portsRun ready && decide ((getPort ready 0).ls = .up ∧ (getPort ready 0).waiting = [] ∧ (getPort ready 0).mnts = [] ∧ ready.boot.serving = none)) = true ∧
    flitLost port0 false [] = true ∧
    (let s := setPort ready 0 { port0 with replay := [⟨4, 3, 0, none⟩, ⟨5, 4, 0, none⟩], replays := 3 }
     decide ((ackFlits (getPort s 0) 4).replay ≠ [] ∧ (getPort s 0).replays = 3 ∧ (getPort ready 0).replays < 3)) = true := by
  decide +kernel

theorem test_replay_timeout : got (.replayTimeout 0) (setPort ready 0 { port0 with replay := [⟨4, 3, 0, none⟩], replays := 3 })
    (fun t => ((getPort t 0).ls, t.out)) = some (.recover, []) := by decide +kernel

/-- Paired devices: this one side 0 (G), its partner of serial 9, whose HAIL was heard; M0 UP. -/
def twin (st : PState) : State :=
  let s := setPort ready 8 { Port.reset .g 8 with ls := .up, gen := 2, width := 8, sstate := 1, nonce := 77, credits := [99, 99, 99, 99] }
  { s with pair := { s.pair with cfg := 0x8000000000000000, pserial := 9, st := st, far := some (true, 2) } }
def farHail : FarHail := ⟨9, true, 55, 2, true⟩

/-- Port 0 UP with no session, hailed with nonce 77. -/
def hailing : State := setPort live 0 { port0 with session := 0, sstate := 1, nonce := 77, hailAt := some 0 }
def parkedAt0 : State := { hailing with sessions := [{ sess0 with st := 4 }] }

theorem wit_SessionGrant :
    (let x := getPort hailing 0
     portsRun hailing && portExists hailing 0 && decide (x.ls = .up ∧ x.idle = false ∧ x.sstate = 1 ∧ x.hailAt = some 0 ∧ x.nonce = 77) &&
       canSend hailing 0 3 24 && canSend hailing 0 3 16) = true ∧
    (let s := setPort live 8 { Port.reset .g 8 with ls := .up, hailAt := some 0, credits := [9, 9, 9, 9] }
     portsRun s && portExists s 8 && !mirrorTied s && canSend s 8 3 24 && decide ((getPort s 8).sstate ≤ 1)) = true ∧
    (let s := twin .joining
     alive s && flows s 8 && farHail.good && partnerHail s farHail && canSend s 8 3 32 && !partnerHail s { farHail with side := false }) = true ∧
    ((reassociable parkedAt0 5 1).isSome && (reassociable hailing 5 0).isNone) = true ∧
    (let s := { setPort ready 0 { port0 with sstate := 2 } with sessions := [{ sess0 with st := 2 }] }
     alive s && portUp s 0 && (s.sessions.find? fun y => y.id = (1 : BitVec 32).toNat).isSome && (adapterOf s 5).isNone &&
       decide ((getPort s 0).session = 1) && (hailing.sessions.find? fun y => y.id = 1).isNone) = true := by decide +kernel

/-- R411: the parked session comes back. -/
theorem test_reassociate : got (.hrp 0 5 1 1 9 77 true) parkedAt0 (fun t => (t.out, (getPort t 0).session)) =
    some ([.sgr 0 true 1 9], 1) := by decide +kernel
theorem test_lgr_active : got (.lgr 0 1 3 1 true) { setPort ready 0 { port0 with sstate := 2 } with sessions := [{ sess0 with st := 2, jda0 := 6 }] }
    (fun t => t.sessions.map fun y => (y.st, y.send0)) = some [(3, 7)] := by decide +kernel

-- the pair

/-- A record of the partner's stream. -/
def partnerRec : Rec :=
  let r := { Rec.blank 1 0x11 (mkItem 0x8011 (beBytes 8 3 ++ beBytes 8 7 ++ zeros 32)) with seq := 1, prev := lastH (twin .paired).jrn 1 }
  { r with h := chainOf r.prev r }

theorem wit_MirrorMessages :
    (let s := twin .paired
     decide (s.pwr.cur = 0) && m0Up s && bit s.pair.cfg 63 && takesMirror s && decide (pst s = .paired ∧ ownStream s = 0) &&
       (match parseRec (recBytes partnerRec) with
        | some r => decide (r.stream = 1 ∧ r.seq = 1) && chainOk s r && !heldSeq s 1 r.seq
        | none => false) && (parseRec []).isNone && pairSends s && canSend s 8 0 16) = true ∧
    (let s := twin .resync
     decide (pst s = .resync ∧ s.pair.broken = false ∧ (zeros 32).length = imageLen 0x81) && canSend s 8 0 16 && !pairSends s && takesMirror s && !anchored s 1 &&
       (match parseRec (recBytes partnerRec) with | some r => chainOk s r | none => false)) = true ∧
    (([.joining, .fenced] : List PState).all fun k => let s := stir (twin k) 9
     m0Up s && s.pair.far.isSome && rszOk s && decide (pst s = k)) = true ∧
    (let s := stir { twin .paired with pair := { (twin .paired).pair with broken := true } } 9
     m0Up s && s.pair.broken && decide (pst s ≠ .joining)) = true ∧
    (let s := { withRing (twin .paired) { rung0 with kind := 0x14, sent := true } with free := 0 }
     (s.jrn.ring.filter fun r => r.stream = 0 && r.sent && !r.acked && decide (r.seq ≤ 1)).length = 1) := by decide +kernel

theorem test_mak : got (.mak ⟨1, 0⟩ true) (withRing (twin .paired) { rung0 with sent := true }) (fun t => t.jrn.ring.map (·.acked)) = some [true] := by
  decide +kernel
/-- R402: a malformed mirror message is counted. -/
theorem test_mak_malformed : got (.mak ⟨1, 0⟩ false) (twin .paired) (fun t => tget 0 t.mgmt.ctr (0x4001 * 256 + 9)) = some 1 := by decide +kernel
theorem test_mrc_gate : got (.mrc ⟨3, 0x81⟩ 0 (zeros 31 ++ [7]) true) (twin .resync) (fun t => (t.out, poolOf t 3)) = some ([.mak 0x81 3], 7) := by
  decide +kernel

def twinWith (f : Pair → Pair) (st : PState) : State := { twin st with pair := f (twin st).pair }

theorem wit_Heartbeats :
    (let s := twin .paired
     m0Up s && bit s.pair.cfg 63 && beats s && canSend s 8 0 32 && alive s && !bit s.baro.chat 1 && decide (ownStream s = 0 ∧ pst s = .paired ∧ s.pair.broken = false)) = true ∧
    (let s := twinWith (fun p => { p with rejoin := true }) .solo
     s.pair.rejoin && beats s && s.jrn.opened && s.boot.debugRec.isEmpty && !s.pair.soloOwed && !s.pair.rejoinOwed && sysRoom s 16) = true ∧
    (let s := twinWith (fun p => { p with met := true }) .fenced
     decide (pst s = .fenced ∧ s.pair.met = true) && rszOk s) = true ∧
    (let s := twinWith (fun p => { p with met := true }) .joining
     decide (pst s = .joining ∧ s.pair.met = true ∧ s.pair.pserial = 9) && rszOk s) = true ∧
    (let s := { twin .paired with baro := { live.baro with raw1 := [5, 3] } }
     alive s && s.baro.raw1 == [5, 3]) = true ∧
    (pst (twin .resync) = .resync ∧ (twinWith (fun p => { p with hbm := true, hbp := true }) .paired).pair.hbp = true) ∧
    (let r := { rung0 with sent := true }
     leastRec (withRing (twin .paired) r).jrn.ring (fun r => r.stream = ownStream (twin .paired) && r.sent && !r.acked) (·.sentAt) == some r) = true := by
  decide +kernel

theorem test_claim : got (.pathSilent true) (twinWith (fun p => { p with hbp := true, hbm := false }) .paired) (fun t => t.pair.st) = some .claim := by
  decide +kernel
theorem test_pin_alone : got (.pathSilent true) (twinWith (fun p => { p with hbp := true, hbm := true }) .paired) (fun t => (t.pair.st, t.pair.hbp)) =
    some (.paired, false) := by decide +kernel

/-- One adapter, of serial 5, gives quorum. -/
def voters (st : PState) : State := twinWith (fun p => { p with adp := [(0, 5)], cfg := setFld p.cfg 60 56 1 }) st

theorem wit_PairStates :
    (let s := twin .joining
     alive s && decide ((getPort s 8).ls = .up ∧ (getPort s 8).sstate = 1 ∧ pst s = .joining ∧ s.pair.pserial = 9 ∧ s.pair.far ≠ none) &&
       rszOk s && !rszOk (twinWith (fun p => { p with far := some (true, 1) }) .fenced) && !mirrorTied s &&
       decide (pst (twin .fenced) = .fenced ∧ pst (twin .solo) = .solo) && !mirrorTied (twin .fenced) && !mirrorTied (twin .solo) &&
       soloDone (twin .solo) && rszOk (twin .solo) && !soloDone (twinWith (fun p => { p with soloOwed := true }) .solo) &&
       decide ((getPort s 8).idle = false)) = true ∧
    (let s := voters .claim
     alive s && portUp s 0 && decide (pst s = .claim ∧ adapterOf s 5 = some 0 ∧ (getPort s 0).session = 1 ∧ (getPort s 0).sstate = 3) &&
       (s.sessions.find? fun y => y.id = (1 : BitVec 32).toNat) == some sess0 && !quorum s &&
       quorum { s with pair := { s.pair with grants := [(0, 6000000000)] } } && s.jrn.opened && s.boot.debugRec.isEmpty &&
       decide (ringUsed s + reserved s + 2 * recPad 16 ≤ ringSize s) && hopeless { s with pair := { s.pair with denied := [0] } }) = true ∧
    (let s := twinWith (fun p => { p with grants := [(0, 9)] }) .solo
     decide ((s.pair.grants.find? fun g => g.1 = 0) = some (0, 9) ∧ pst s = .solo)) = true ∧
    (alive (twin .resync) = true ∧ ringTop (twin .resync) (1 - ownStream (twin .resync)) ≤ (twin .resync).pair.mapply) ∧
    (let s := twinWith (fun p => { p with moves := [⟨1, 1, false⟩], moveId := 1, ownmap := 0xAAAAAAAAAAAAAAAA }) .paired
     decide (nextMove s = some ⟨1, 1, false⟩) && s.jrn.opened && sysRoom s 16 && !sysRoom { s with prot := { s.prot with jseal := 0 } } 16 && (List.range 64).all fun k => !bit (1 : Word) k || b2n (bit s.pair.ownmap k) == ownStream s) = true := by
  decide +kernel

theorem test_solo : got (.lgr 0 1 3 2 true) (voters .claim) (fun t => (t.pair.st, t.pair.ownmap)) = some (.solo, 0) := by decide +kernel
theorem test_deny : got (.lgr 0 1 3 3 true) (voters .claim) (fun t => t.pair.st) = some .fenced := by decide +kernel
/-- R436: a JOINING device that has met its partner is told by its MHB that it joins, or that it rejoins. -/
theorem test_join : got (.hrp 8 9 16 0 1 77 true) (twin .joining) (fun t => (t.pair.st, t.pair.met)) = some (.joining, true) := by decide +kernel
theorem test_join_mhb : ([1, 4] : List (BitVec 4)).map (fun k => got (.mhb 9 true k false ⟨0, 0⟩ true)
    (twinWith (fun p => { p with met := true }) .joining) fun t => t.pair.st) = [some .paired, some .resync] := by decide +kernel

-- ledger time

/-- Port 0 is the time source; an exchange waits. -/
def timed (t3 : Option Nat) : State :=
  let s := setPort ready 0 { port0 with pcfg := setFld port0.pcfg 39 39 1 }
  { s with time := { s.time with exch := [⟨0, 1, 100, 150, t3, 6, 0⟩] }, now := 1000000 }

theorem wit_TimeSync :
    (let s := timed none
     alive s && portUp s 0 && portActive s 0 && chosenSource s 0 && sess0.tsyAt.isNone && (s.sessions == [sess0]) && canSend s 0 3 8 &&
       (s.time.exch.find? fun e => e.port = 0 && e.t3.isNone).isSome && !chosenSource (setPort s 0 port0) 0) = true ∧
    (let s := timed (some 160)
     (s.time.exch.find? fun e => e.port = 0 && e.seq = 6 && e.t3.isSome).isSome && s.time.running && s.time.crystal) = true ∧
    (let s := { timed none with time := { (timed none).time with left := 40, ppm := -200 } }
     s.time.running && decide (s.time.left ≠ 0 ∧ s.time.ppm ≠ 0)) = true ∧
    (live.phase ≠ .silent ∧ live.phase ≠ .held ∧ live.time.crystal = false) := by decide +kernel

/-- R458: (150 - 100) - (200 - 160) = 10, halved: 5 ahead, slewed at -200 ppm. -/
theorem test_tdr : got (.tdr 0 200 6 true) (timed (some 160)) (fun t => (t.time.last, t.time.ppm)) = some (5, -200) := by decide +kernel
theorem test_time_guard : got (.timeGuardCheck 1) (timed none) (fun t => (t.phase, t.baro.last)) = some (.silent, 0x13) := by decide +kernel

-- faults

/-- The record whose reply is out. -/
def done0 : Rec := { rung0 with replied := true }
/-- A ring of 512 MiB at DRAM address 0 that holds it. -/
def ringed : State :=
  let s := withRing ready done0
  { s with prot := { s.prot with jseal := 0x0000010000000000 } }

theorem wit_FaultReactions :
    (live.phase ≠ .held ∧ live.phase ≠ .silent ∧ pst (twin .paired) = .paired ∧ pst live ≠ .paired) ∧
    (let s := setCtx live 0 { ctxOf false [] with st := .ready }
     inLedger (getCtx s 0) && decide ((getCore s (getCtx s 0).lane).running ≠ some 0)) = true ∧
    (laneOf (lane false []) .nothing 1 0 = some 0 ∧ laneOf live .nothing 3 0 = some 256) ∧
    (infoOk 7 (.record 0) 0x27 = true ∧ infoOk 9 (.record 0) 0x31 = false) ∧
    (ownRecAt ringed 0x2000000010 = none ∧ ownRecAt ringed 0x10 = some done0) := by decide +kernel

theorem test_lane_loss : got (.barometerFault 1 1 0 0 .nothing 0) (lane false []) (fun t =>
    ((getCore t 0).dead, (getCell t 0).svc, t.jrn.path.map fun r => (r.status, r.reason))) = some (true, .drained, [(2, 0xF2)]) := by decide +kernel
theorem test_uncorrectable : got (.barometerFault 7 1 0 0 (.record 0) 0x27) (setCtx live 0 { ctxOf false [] with st := .ready })
    (fun t => ((getCtx t 0).st, (getCtx t 0).freason)) = some (.frozen, 0x1E) := by decide +kernel

def drained : State := setCell live 0 { getCell live 0 with svc := .drained }

theorem wit_SafetyEvents :
    (alive live = true ∧ live.pwr.cur = 0 ∧ ({ live with baro := { live.baro with wdAt := some 0 } } : State).baro.wdAt = some 0 ∧
      0x1000 < dramBytes live.part ∧ ownRecAt live 0x1000 = none ∧ live.phase ≠ .held ∧ live.pwr.cur ≠ 4) ∧
    (({ live with pwr := { live.pwr with cur := 4 } } : State).pwr.cur = 4 ∧ ownRecAt ringed 0x10 = some done0) ∧
    (let s := drained
     alive s && decide ((getCell s 0).svc = .drained) && !(s.ctxs.any fun e => inLedger e.2 && e.2.lane / 4 = 0) && testable s 0 &&
       (spareCell s).isSome) = true ∧
    testable { drained with baro := { drained.baro with events := [(0, [⟨0, 4, 0, true⟩])] } } 0 = false ∧
    (let s := { live with baro := { live.baro with failed := (List.range 4).map (64 + ·) } }
     spareCell s) = none ∧
    (let s := setCell drained 1 { getCell drained 1 with phys := 64 }
     spareCell (setCell s 2 { getCell s 2 with phys := 65 })) = none ∧
    (let s := { live with baro := { live.baro with raw0 := List.replicate 64 0 } }
     ((rawTimes s.baro 0).filter fun t => s.now < t + 1000000000).length) = 64 := by decide +kernel

theorem test_kick_wrong : got (.watchdogKick 1) live (fun t => (t.phase, t.baro.last, t.out.contains .silent)) = some (.silent, 0x0E, true) := by
  decide +kernel
theorem test_patrol : got (.patrolScrub 0x1004 .double) live (fun t => rdWord t.mem 0x1000) = some ⟨0xF4, 0x1000⟩ := by decide +kernel
theorem test_self_test : got (.cellSelfTest 0 true) drained (fun t => ((getCell t 0).svc, t.now)) = some (.ok, 2000000000) := by decide +kernel

-- protection

/-- Entries of a region over [x1000, x2000). -/
def regA : Word := 0x8000000000100000
def regB : Word := 0x0000000000200000

theorem wit_ProtectionTables :
    (alive live = true ∧ live.prot.filling = none ∧ live.prot.pend = false ∧ live.prot.fsealOn = false ∧ live.prot.jsealOn = false ∧
      live.prot.dcfgLocked = false ∧ live.prot.ringMove = none ∧ bit (0x8000000000000800 : Word) 63 = true) ∧
    (let s := { live with prot := { live.prot with shB := [(0, regB)] } }
     fld regA 39 8 * 256 < fld (tget 0 s.prot.shB 0) 39 8 * 256 ∧ dramSeals s.prot = dramSeals live.prot) ∧
    (let s := { live with prot := { live.prot with pend := true, filling := some (0, 0), ringMove := some ([0], 5), fsealOn := true, dcfgLocked := true } }
     alive s = true) ∧
    (noneAccepted live = true ∧ ringUsed ready + 0x100000 ≤ 1 * 0x20000000) ∧
    (let v : Word := 0x0000010000000000
     (fld v 39 29, fld v 48 40, fld v 63 49) = (0, 1, 0) ∧ regionsMeet live (0, 0x20000000) = false) := by decide +kernel

/-- The first JSEAL, one beside FSEAL, a later one, one refused, and a move whose ring holds one unreclaimed record. -/
theorem wit_ProtectionTables_rings :
    (let v : Word := 0x0000010020000000
     let r := (fld v 39 29 * 0x20000000, fld v 48 40 * 0x20000000)
     (fld v 63 49 = 0 ∧ fld v 28 0 = 0 ∧ 1 ≤ fld v 48 40 ∧ fld v 48 40 ≤ 32 ∧ r.1 + r.2 ≤ dramBytes live.part) ∧
       (regionsMeet live r = false ∧ noneAccepted live = true ∧ regionsMeet ready r = false ∧ noneAccepted ready = true ∧
        ready.prot.jsealOn = true ∧ ringUsed ready + 0x100000 ≤ r.2) ∧ 0 + 0x1400000 ≤ r.1 ∧ fld (0 : Word) 48 40 = 0) ∧
    (let s := { ringed with prot := { ringed.prot with ringMove := some ([0x0000020000000000], 5) } }
     alive s = true ∧ 1 ≤ fld s.prot.jseal 48 40 ∧ (recBytes done0).length ≤ (jsealRange s.prot.jseal).2 ∧
       s.jrn.ring = [done0] ∧ s.jrn.ring.filter (unreclaimed s) = [done0] ∧ noneAccepted s = true) ∧
    (let v : Word := 0x0000000040000000
     fld v 63 40 = 0 ∧ fld v 19 0 = 0 ∧ fld v 39 20 * 0x100000 + 0x1400000 ≤ dramBytes live.part ∧ dramSeals live.prot = [] ∧
       regionsMeet live (fld v 39 20 * 0x100000, 0x1400000) = false) := by decide +kernel

/-- R371: while records move, the old ring and the new one are sealed. -/
theorem test_jseal_moves : got (.jsealWrite 0x0000010040000000) ringed (fun t =>
    (sealedAt t.prot 0x10, sealedAt t.prot 0x40000010, deviceReady t, t.prot.ringMove.isSome)) = some (true, true, false, true) := by decide +kernel

theorem test_key : got (.keyTableWrite 5 false (raw 0x38)) live (fun t => (tget 0 t.prot.keys 5, tget 0 t.prot.keys 6)) = some (0x38, 0) := by
  decide +kernel
theorem test_key_bad : got (.keyTableWrite 5 false (raw 1)) live (fun t => tget 0 t.prot.keys 5) = some 0 := by decide +kernel
theorem test_region : got (.regionShadowWrite 0 false ⟨0x10, regA⟩) { live with prot := { live.prot with shB := [(0, regB)] } }
    (fun t => tget 0 t.prot.shA 0) = some regA := by decide +kernel
theorem test_region_empty : got (.regionShadowWrite 0 false ⟨0x10, regA⟩) live (fun t => tget 0 t.prot.shA 0) = some 0 := by decide +kernel
theorem test_epoch : got .epochBoundary { live with prot := { live.prot with pend := true, shA := [(0, regA)] } }
    (fun t => (tget 0 t.prot.actA 0, t.prot.epoch)) = some (regA, 1) := by decide +kernel

theorem wit_RegisterWrites :
    (alive live = true ∧ regAt 0 = none ∧ cellHolds live 3 = false ∧ live.pair.locked = false ∧ portExists live 7 = true ∧
      3 < ratedCells live.part.variant) ∧
    (let v : Word := 0x0190000FE0000000
     fld v 47 40 = 0 ∧ fld v 37 36 = 0 ∧ fld v 28 0 = 0 ∧ fld v 35 33 ≠ 0 ∧ fld v 32 30 ≠ 0 ∧ fld v 63 48 ≠ 0) ∧
    (bit (getPort (atLink .up) 0).pcfg 29 = true) := by decide +kernel

theorem test_register_absent : got (.registerWrite 0 1) live (fun t => tget 0 t.mgmt.ctr (0x4000 * 256 + 1)) = some 1 := by decide +kernel
theorem test_port_disabled : got (.registerWrite 0xFF03000000 0x0190000FC0000000) (atLink .up) (fun t => (getPort t 0).ls) = some .disabled := by
  decide +kernel

-- boot, the key vault and debug

/-- The boot ROM, greeted on port 0; an offer is served, with one chunk asked for. -/
def atRom : State :=
  let s := setPort { State.reset with phase := .rom } 0 { port0 with bootPeer := true }
  { s with boot := { s.boot with dramOk := true } }
def offer0 : Offer := ⟨0, 3, 100, [], [(0, 5)], 1, 0, false⟩
def serving (o : Offer) : State := { atRom with boot := { atRom.boot with serving := some o } }

theorem wit_BootSequence :
    (romPort atRom 0 && (getPort atRom 0).bootPeer && canSend atRom 0 3 16 && canSend (serving offer0) 0 3 16 && decide (atRom.boot.life ≠ 4 ∧ atRom.boot.serving = none ∧ atRom.boot.held = [])) = true ∧
    (let s := serving offer0
     romPort s 0 && decide (s.boot.serving = some offer0 ∧ offer0.asked = (0, 5) :: [] ∧ 100 = min 4096 (offer0.len - 4096 * 0)) &&
       decide (field (zeros 100) 0 2 ≠ 0x1B00)) = true ∧
    (let o := { offer0 with len := 192, chunks := [(0, [0x1B, 0, 3] ++ zeros 189)], asked := [], hdrOk := true }
     (nextEnvelope o).isSome && decide (o.checked < setCount (offerData o)) &&
       (match nextEnvelope o with
        | some x => (envCheck (serving o) 0 x.2 ((envelope o 0).getD []) x.1).isSome
        | none => false)) = true ∧
    (let s := { atRom with boot := { atRom.boot with fuseJobs := [⟨.set, [.arb, .revoke 2]⟩, ⟨.lcadv, [.life]⟩] } }
     decide (s.phase = .rom ∧ s.boot.fuseJobs = ⟨.set, .arb :: [.revoke 2]⟩ :: [⟨.lcadv, [.life]⟩] ∧ s.boot.fuseRetry = false)) = true ∧
    (let s := { serving offer0 with boot := { (serving offer0).boot with fuseJobs := [⟨.set, [.arb]⟩], fuseRetry := true } }
     s.phase = .rom ∧ s.boot.serving = some offer0 ∧ canSend (passTo s (s.now + 20000000)) 0 3 16 = true) ∧
    (alive ready = true ∧ portUp ready 0 = true) := by decide +kernel

theorem test_bof_retired : got (.bof 0 3 100 true) { atRom with boot := { atRom.boot with life := 4 } } (fun t => t.out) =
    some [.bst 0 3 0xAB 0 0] := by decide +kernel
theorem test_brq_timeout : got .brqTimeout (serving offer0) (fun t => (t.out, t.now)) = some ([.bst 0 3 0xAC 0 0], 100000000005) := by
  decide +kernel
theorem test_fuse : got (.fuseBlow true) { atRom with boot := { atRom.boot with fuseJobs := [⟨.set, [.arb, .revoke 2]⟩] } }
    (fun t => (t.boot.arb, t.boot.revoke, t.boot.fuseJobs)) = some (1, 0, [⟨.set, [.revoke 2]⟩]) := by decide +kernel

theorem wit_VaultAndDebug :
    (alive live = true ∧ live.boot.life ≠ 4 ∧ live.boot.reportAsk = none ∧ (zeros 32).length = 32 ∧ live.phase ≠ .held ∧ live.phase ≠ .silent) ∧
    (live.boot.life = 1 ∧ lifeBusy live.boot = false ∧ live.boot.fuseJobs = [] ∧ tget 0 live.boot.slots 0 = 0 ∧ ({ live with boot := { live.boot with slots := [(0, 5)], life := 1 } } : State).boot.life = 1) ∧
    (tokenOk live [] = false ∧ dapSealed live 0x1000 = false ∧ live.pwr.cur < 3 ∧ 0x1000 + 8 ≤ dramBytes live.part) ∧
    (dapReserved (i8 7) = false ∧ fld (⟨0xC0, 0⟩ : TWord).tag 7 4 = 12) ∧ commandOk live 4 (zeros 3437) = false := by decide +kernel

/-- A MOG_LIMITS envelope of 200 frames and 9 events for the device `live`, its signatures zeros. -/
def mogEnv : List Byte := beBytes 2 0x0C01 ++ [4] ++ zeros 5 ++ beBytes 8 1 ++ beBytes 16 live.baro.nonce.toNat ++ beBytes 2 200 ++ beBytes 2 9 ++ zeros 3401
/-- With both signatures passing, nothing else stands before the command. -/
theorem wit_commandOk (h : Config.edVerify live.boot.cmdEd (mogEnv.take 64) (slice mogEnv 64 64) = true)
    (h' : Config.mlVerify live.boot.cmdMl (mogEnv.take 64) (slice mogEnv 128 3309) = true) : commandOk live 4 mogEnv = true := by
  have g : (field mogEnv 0 2 = 0x0C01 && field mogEnv 2 1 = 4 && zeroAt mogEnv 3 5 && argsZero 4 mogEnv &&
    field mogEnv 8 8 = live.part.serial.toNat && field mogEnv 16 16 = live.baro.nonce.toNat) = true := by decide +kernel
  unfold commandOk
  rw [g, h, h']
  rfl

/-- R471: SLOTPROG of x63 has four bits to blow. -/
theorem test_slotprog : got (.slotprog 1 99) live (fun t => (tget 0 t.boot.slots 1, t.boot.fuseJobs)) =
    some (0, [⟨.slotprog, [.slot 1 0, .slot 1 1, .slot 1 5, .slot 1 6]⟩]) := by decide +kernel
theorem test_dap : got (.dap .write 0x1000 (i8 7)) live (fun t => rdWord t.mem 0x1000) = some (i8 7) := by decide +kernel
theorem test_dap_closed : got (.dap .write 0x1000 (i8 7)) { live with boot := { live.boot with life := 3 } } (fun t => (t.boot.dapErr, rdWord t.mem 0x1000)) =
    some (true, raw 0) := by decide +kernel
theorem test_highz : got .highz live (fun t => (t.phase, t.baro.safeOut)) = some (.silent, false) := by decide +kernel

-- the power ladder and resets

/-- Every cell in Frost, rung 4 wanted; no session. -/
def calmDev (tgt : Nat) : State := { live with
  now := 10000000000000, time := ready.time
  pwr := { live.pwr with tgt := tgt, frV := true, wsrc := 0, wake := 0x3FF } }

/-- Port 0 UP with its session when rung `tgt` is wanted. -/
def entering (tgt : Nat) : State := onPort (calmDev tgt)

theorem wit_PowerLadder :
    (let s := live
     alive s && decide ((getCell s 0).off = true ∧ (getCell (awake s) 0).off = false) && !cellHolds (awake s) 0 && cellHolds (lane false []) 0) = true ∧
    (let s := awake live
     idleCells s = [0] ∧ (getCell s 0).exitAt = none ∧ (getCell s 0).cur < cellLimit s 0) ∧
    tgtOk live 2 = true ∧
    (([1, 2, 3, 4] : List Nat).all fun r => let s := calmDev r
      alive s && decide (rungAllowed s = r) && decide (s.pwr.cur < r) && deviceCalm s && portsCalm s && rested s &&
        decide (s.pwr.entering = none ∧ s.pwr.wakeDue = none ∧ activePorts s = []) &&
        (List.range 9).all fun p => !portStirs s p && portQuiet s p) = true ∧
    (let s := entering 3
     alive s && deviceCalm s && portsCalm s && rested s && portActive s 0 && mntFits (getPort s 0) s.now 0x0A &&
       decide (rungAllowed s = 3 ∧ (getPort s 0).ls = .up ∧ (getPort s 0).mnts = [] ∧ s.pwr.entering = none ∧ s.pwr.wakeDue = none)) = true ∧
    (let s := { calmDev 1 with pwr := { (calmDev 1).pwr with entering := some (1, 5) } }
     alive s && deviceCalm s && portsCalm s && decide (1 ≤ rungAllowed s ∧ s.pwr.entering = some (1, 5)) &&
       !portsCalm (setPort s 0 { port0 with ls := .align })) = true ∧
    (let s := { calmDev 4 with pwr := { (calmDev 4).pwr with cur := 4 } }
     bit s.pwr.wake 0 && !s.pwr.refLost && s.pwr.entering.isNone && !bit s.baro.chat 2 &&
       (resumeImages { s with pwr := { s.pwr with frV := false } }).isNone) = true := by decide +kernel

/-- The header of an image of `n` zero bytes at address 0 with the digest `d`. -/
def copyHead (n : Nat) (d : List Byte) : List Byte := zeros 8 ++ (beBytes 4 n ++ (zeros 52 ++ d))
def frosted (n : Nat) (d h : List Byte) : State :=
  let s := calmDev 4
  { s with
    mem := wrBytes ⟨[], []⟩ 0 0 (copyHead n d)
    pwr := { s.pwr with cur := 4, frAddr := 0 }
    boot := { s.boot with mlog := [[], [], [], zeros 32 ++ h] } }

theorem length_copyHead (n : Nat) (d : List Byte) (h : d.length = 64) : (copyHead n d).length = 128 := by
  simp only [copyHead, List.length_append, length_zeros, length_beBytes, h]

/-- R504: such an image passes when its digest and the log's are right. -/
theorem copyImage_zeros (n : Nat) (d : List Byte) (hn : n < 256 ^ 4) (hd : sha512 (zeros n) = d) :
    copyImage (frosted n d (sha512 (copyHead n d))) 0 n (zeros 32 ++ sha512 (copyHead n d)) = (copyHead n d ++ zeros n, true) := by
  have h64 : d.length = 64 := by rw [← hd, length_sha512]
  have hl := length_copyHead n d h64
  have hh : rdBytes (wrBytes ⟨[], []⟩ 0 0 (copyHead n d)) 0 128 = copyHead n d := by
    rw [← hl]
    exact rdBytes_eq _ 0 _ fun i hi => rdByte_wrBytes_inside _ 0 0 _ i hi
  have hp : rdBytes (wrBytes ⟨[], []⟩ 0 0 (copyHead n d)) 128 n = zeros n := by
    have h := rdBytes_eq (wrBytes ⟨[], []⟩ 0 0 (copyHead n d)) 128 (zeros n) fun i hi => by
      rw [rdByte_wrBytes_outside _ _ _ _ _ (by omega)]
      exact (List.getElem_replicate ..).symm
    rwa [length_zeros] at h
  have h1 : slice (zeros 32 ++ sha512 (copyHead n d)) 32 64 = sha512 (copyHead n d) := by
    rw [slice, List.drop_left' (length_zeros 32), List.take_of_length_le (Nat.le_of_eq (length_sha512 _))]
  have h2 : slice (copyHead n d) 64 64 = d := by
    rw [slice, copyHead, ← List.append_assoc, ← List.append_assoc, List.drop_left' (by
      simp [List.length_append]), List.take_of_length_le (Nat.le_of_eq h64)]
  have h3 : evLen (copyHead n d) = n := by
    rw [evLen, field, slice, copyHead, List.drop_left' (length_zeros 8), List.take_left' (length_beBytes 4 n)]
    simp only [beNat, beBytes, List.foldl, BitVec.toNat_ofNat]
    omega
  simp only [copyImage, frosted, Nat.zero_add, hh, hp, h1, h2, h3, hd, decide_true, Bool.and_self]

/-- R505: a device in Frost whose resume copy passes. -/
theorem wit_PowerLadder_resume : ∃ s : State, s.phase = .running ∧ s.pwr.cur = 4 ∧ bit s.pwr.wake 0 = true ∧
    s.pwr.entering = none ∧ s.pwr.refLost = false ∧ (resumeImages s).isSome = true := by
  generalize hd : sha512 (zeros 143360) = d
  have h := copyImage_zeros 143360 d (by decide) hd
  generalize hk : sha512 (copyHead 143360 d) = k at h
  refine ⟨frosted 143360 d k, rfl, rfl, (show bit (0x3FF : BitVec 11) 0 = true from by decide), rfl, rfl, ?_⟩
  show ((if !true || !(copyImage (frosted 143360 d k) 0 143360 (zeros 32 ++ k)).2 then none else _) : Option _).isSome = true
  rw [h]
  rfl

theorem test_clad_on : got (.cladOn 0 0) live (fun t => ((getCell t 0).off, (getCell t 0).exitAt)) = some (false, some 100000000) := by
  decide +kernel
theorem test_rung : got .deviceRungEntry (calmDev 3) (fun t => (t.pwr.cur, t.time.holdover)) = some (3, true) := by decide +kernel
theorem test_wake : got (.deviceWake 1) { calmDev 3 with pwr := { (calmDev 3).pwr with cur := 3 } } (fun t => (t.pwr.cur, t.pwr.wsrc, t.now)) =
    some (0, 1, 10000010000000) := by decide +kernel
theorem test_wake_masked : got (.deviceWake 1) { calmDev 3 with pwr := { (calmDev 3).pwr with cur := 3, wake := 0 } } (fun t => t.pwr.cur) =
    some 3 := by decide +kernel

theorem wit_Resets :
    (State.reset.phase = .held ∧ State.reset.pwr.testen = false ∧ State.reset.pwr.supplies = 0x7F ∧ gibOk State.reset.part.gib = true ∧
      bit live.baro.chat 0 = false ∧ bit live.baro.chat 2 = false ∧ gibsOk live.part = true ∧ ({ live with baro := { live.baro with raw2 := [5] } } : State).baro.raw2 = 5 :: [] ∧ ({ State.reset with phase := .selfTest } : State).phase = .selfTest) := by decide +kernel

theorem test_porst : got .porstNRelease State.reset (fun t => (t.phase, t.pwr.selfTestAt)) = some (.selfTest, 2000000000) := by decide +kernel
theorem test_system_reset : got .systemReset live (fun t => (t.phase, t.baro.boots, t.cores)) = some (.rom, 1, []) := by decide +kernel
/-- R455: SYSRST_N acts 10 µs after its last transition. -/
theorem test_reset_filter : got .systemReset { live with baro := { live.baro with raw2 := [5] } } (fun t => t.now) = some 10000005 := by decide +kernel
theorem test_supply : got (.supplyOutOfWindow 0) live (fun t => (t.phase, t.baro.last)) = some (.silent, 0x11) := by decide +kernel

-- the management plane

theorem wit_ManagementRequests :
    (let s := ready
     alive s && portUp s 0 && portActive s 0 && activeSession s 0 == some sess0 && decide ((getPort s 0).answers.length < 8)) = true ∧
    (objMissing 0x5000 0 = some 0x06020000 ∧ objMissing 0x2500 1 = none ∧ objAcc 0x2202 1 = .sw ∧ objAcc 0x1000 0 = .const ∧
      lenOf 0x2500 1 = 2 ∧ isCounter 0x1000 0 = false) ∧
    (let a : Answer := ⟨1, 7, 0, [], none, 0, 0⟩
     let s := setPort ready 0 { port0 with answers := [a] }
     ((getPort s 0).answers.find? fun a => answerReady s a.w a.hold) == some a && canSend s 0 2 16) = true ∧
    ((getCtx (setCtx live 0 { ctxOf false [] with st := .frozen }) 0).st = .frozen ∧ live.mgmt.nodeId = 0) := by decide +kernel

theorem test_mrq_absent : got (.mrqRead 0 0x5000 0 9 true) ready (fun t => (getPort t 0).answers.map (·.abort)) = some [0x06020000] := by
  decide +kernel
theorem test_mrq_vendor : got (.mrqRead 0 0x1018 1 9 true) ready (fun t => (getPort t 0).answers.map fun a => (a.abort, a.data)) =
    some [(0, [0, 0, 0x0D, 0x53])] := by decide +kernel
theorem test_mrq_ro : got (.mrqWrite 0 0x1000 0 9 [0, 0, 0, 0] true) ready (fun t => (getPort t 0).answers.map (·.abort)) = some [0x06010002] := by
  decide +kernel

/-- Node 5, OPERATIONAL. -/
def canDev : State := { ready with mgmt := { ready.mgmt with nodeId := 5, nodeUse := 5, bus := 0, nmt := .operational } }
def moving (x : SdoXfer) : State := { canDev with mgmt := { canDev.mgmt with sdo := some x } }

theorem wit_CanPort :
    (canUp canDev && sdoUp canDev && decide (canDev.pwr.cur = 0 ∧ canDev.mgmt.hbMs ≠ 0) && frameFits canDev false) = true ∧
    (let s := moving ⟨0x1008, 0, true, zeros 9, false, 0, false⟩
     sdoUp s && s.mgmt.sdo.isSome) = true ∧
    (let a : SdoAnswer := ⟨0x1000, 0, 0, [1, 2, 3, 4], 0, none, 0, false⟩
     let s := { canDev with mgmt := { canDev.mgmt with sdoAns := [a] } }
     (s.mgmt.sdoAns.find? fun a => answerReady s a.w a.hold) == some a) = true ∧
    (alive { canDev with mgmt := { canDev.mgmt with bus := 2 } } = true ∧ canWriteFail 0x1017 0 2 = none ∧ canWritable 0x2500 1 = false) := by
  decide +kernel

theorem test_nmt : got (.nmtStopRemoteNode 0) canDev (fun t => t.mgmt.nmt) = some .stopped := by decide +kernel
theorem test_nmt_other : got (.nmtStopRemoteNode 6) canDev (fun t => t.mgmt.nmt) = some .operational := by decide +kernel
theorem test_sdo_segment : got (.sdoUploadSegment ⟨false, false⟩) (moving ⟨0x1008, 0, true, zeros 9, false, 0, false⟩)
    (fun t => (t.mgmt.sdo.map (·.data.length), t.mgmt.sdoAns.map (·.data.length))) = some (some 2, [7]) := by decide +kernel
theorem test_sdo_toggle : got (.sdoUploadSegment ⟨true, false⟩) (moving ⟨0x1008, 0, true, zeros 9, false, 0, false⟩)
    (fun t => (t.mgmt.sdo.isNone, t.mgmt.sdoAns.map (·.abort))) = some (true, [0x05030000]) := by decide +kernel
theorem test_heartbeat : got .heartbeat canDev (fun t => t.out) = some [.heartbeat true 5 5] := by decide +kernel

-- the block as a whole

theorem wit_StepFront : ({ live with pending := [.brqTimeout] } : State).pending = .brqTimeout :: [] ∧ live.pending = [] := by decide
theorem wit_ResetState : ∃ s : State, s = State.reset := ⟨_, rfl⟩
theorem wit_MemoryForm : Inv State.reset ∧ Inv (withMem live [(0x1000, i8 7)]) ∧
    (match step { live with pending := [.patrolScrub 0x1004 .double] } with | .next _ => true | _ => false) = true := by
  unfold Inv
  decide +kernel
theorem wit_SilentStays : ({ live with phase := .silent } : State).phase = .silent ∧
    got .watchdogExpiry { live with phase := .silent } (fun t => t.phase) = some .silent ∧
    got (.barometerFault 0x19 0 0 0 .nothing 0) { live with phase := .silent } (fun t => (t.phase, t.out)) = some (.silent, [.alert false]) := by
  decide +kernel

end Sys2Proof.Tests
end

section
/-! Frames of the operations that a retiring instruction is made of: the F registers, the posted writes, and what one
register write keeps. -/

namespace Sys2Proof.Machine

-- the F registers in use

/-- The F registers in use depend on no other part of the core than what it runs and its own F registers. -/
theorem fRegs_setCore {s : State} {c : Nat} {k : Core} (hr : k.running = (getCore s c).running)
    (ho : k.ownF = (getCore s c).ownF) : fRegs (setCore s c k) c = fRegs s c := by
  simp [fRegs, hr, ho]

/-- A context whose F registers stay leaves those in use as they were. -/
theorem fRegs_setCtx {s : State} {n : Nat} {x : Ctx} (c : Nat) (h : x.f = (getCtx s n).f) :
    fRegs (setCtx s n x) c = fRegs s c := by
  have hf : ∀ m, (getCtx (setCtx s n x) m).f = (getCtx s m).f := by
    intro m
    rw [getCtx_setCtx]
    split
    · next hm => rw [h, hm]
    · rfl
  simp only [fRegs, getCore_setCtx, hf]

@[simp] theorem Ctx.f_setBankOf (x : Ctx) (l : Nat) (b : Bank) : (x.setBankOf l b).f = x.f := by
  unfold Ctx.setBankOf
  split
  · rfl
  · split <;> rfl

@[simp] theorem Ctx.f_setOvr (x : Ctx) : x.setOvr.f = x.f := by simp only [Ctx.setOvr]

@[simp] theorem Ctx.f_charge (x : Ctx) (k : Nat) : (x.charge k).f = x.f := by
  unfold Ctx.charge
  split
  · rfl
  · split
    · rfl
    · dsimp only
      exact Ctx.f_setOvr x

@[simp] theorem fRegs_setBank (s : State) (c : Nat) (b : Bank) : fRegs (setBank s c b) c = fRegs s c := by
  unfold setBank
  split
  · exact fRegs_setCore rfl rfl
  · split
    · exact fRegs_setCtx c (Ctx.f_setBankOf ..)
    · exact fRegs_setCore rfl rfl

@[simp] theorem fRegs_chargeCore (s : State) (c k : Nat) : fRegs (chargeCore s c k) c = fRegs s c := by
  unfold chargeCore
  split
  · split
    · exact fRegs_setCtx c (Ctx.f_charge ..)
    · rfl
  · rfl

@[simp] theorem fRegs_holdCore (s : State) (c k skip : Nat) : fRegs (holdCore s c k skip) c = fRegs s c := by
  unfold holdCore
  dsimp only
  split
  · split
    · exact fRegs_chargeCore ..
    · rw [fRegs_setCtx, fRegs_chargeCore]
      rfl
  · exact fRegs_chargeCore ..

@[simp] theorem fRegs_endEmu (s : State) (c : Nat) (next : Option Addr) : fRegs (endEmu s c next) c = fRegs s c := by
  unfold endEmu
  split
  · dsimp only
    split
    · rfl
    · exact fRegs_setCtx c rfl
  · rfl

@[simp] theorem fRegs_doSwap (s : State) (c : Nat) : fRegs (doSwap s c) c = fRegs s c := by
  unfold doSwap
  split
  · dsimp only
    rw [fRegs_setCore, fRegs_setCtx] <;> rfl
  · rfl

theorem fRegs_clock (s : State) (c now free : Nat) : fRegs { s with now := now, free := free } c = fRegs s c := rfl

/-- Retirement of an instruction that is no far access leaves the F registers as its body left them. -/
theorem fRegs_retire {s : State} {q : Run} {d : Done} (hf : d.far = none) :
    fRegs (retire s q d) q.c = fRegs d.s q.c := by
  have hs : fRegs (if swapCycles s q.c d.fp = 0 then d.s else doSwap d.s q.c) q.c = fRegs d.s q.c := by
    split
    · rfl
    · exact fRegs_doSwap ..
  unfold retire
  simp only [hf]
  rw [fRegs_setCore, fRegs_clock, fRegs_setBank, fRegs_holdCore, fRegs_endEmu, hs] <;> rfl

-- posted writes

/-- The posted writes depend on the store buffer and on what the far accesses do, not on when they start. -/
theorem postedWrites_congr {k l : Core} (hs : k.sb = l.sb) (hk : k.far.map FarAcc.kind = l.far.map FarAcc.kind) :
    postedWrites k = postedWrites l := by
  have hp : ∀ j : Core, postedWrites j = j.sb ++ (j.far.map FarAcc.kind).filterMap
      fun a => match a with | .store w | .heal _ _ w => some w | _ => none := fun j => by
    rw [List.filterMap_map]
    rfl
  rw [hp, hp, hs, hk]

/-- A far load that a newer register value overtakes is no posted write, before or after. -/
theorem postedWrites_dropFarG (k : Core) (n lvl : Nat) (r : Reg) :
    postedWrites { k with far := dropFarG k.far n lvl r } = postedWrites k := by
  unfold postedWrites dropFarG
  rw [List.filterMap_map]
  congr 2
  funext f
  obtain ⟨kind, start, words⟩ := f
  cases kind with
  | loadG m l o a sz w =>
    cases o with
    | none => rfl
    | some j =>
      by_cases h : m = n ∧ l = lvl ∧ j = r
      · simp only [Function.comp_apply, if_pos h]
      · simp only [Function.comp_apply, if_neg h]
  | loadF | store | heal | pre => rfl

theorem postedWrites_setBank (s : State) (c : Nat) (b : Bank) :
    postedWrites (getCore (setBank s c b) c) = postedWrites (getCore s c) := by
  rw [getCore_setBank]
  rfl

-- what an instruction keeps, in steps

theorem keepsRest_trans {s t u : State} {c : Nat} (h : keepsRest s t c) (k : keepsRest t u c) : keepsRest s u c := by
  obtain ⟨⟨⟨h1, h2, h3, h4, h5, h6, h7, h8, h9⟩, hA, hF, hM, hP⟩, hFl, hCc⟩ := h
  obtain ⟨⟨⟨k1, k2, k3, k4, k5, k6, k7, k8, k9⟩, kA, kF, kM, kP⟩, kFl, kCc⟩ := k
  exact ⟨⟨⟨k1.trans h1, k2.trans h2, k3.trans h3, k4.trans h4, k5.trans h5, k6.trans h6, k7.trans h7, k8.trans h8,
    k9.trans h9⟩, kA.trans hA, kF.trans hF, kM.trans hM, kP.trans hP⟩, kFl.trans hFl, kCc.trans hCc⟩

/-- An alike bank, the same F registers and no store: all that a program sees stays. -/
theorem keeps_of_alike {s t : State} {c : Nat} (hb : (curBank t c).alike (curBank s c)) (hF : keepsF s t c)
    (hM : keepsMem s t c) : keepsG s t c ∧ keepsRest s t c := by
  obtain ⟨hg, ha, hct, hxb, hte, hfl, hxa, hxc, -, hk, hp, hm, hcc, hsig⟩ := hb
  exact ⟨fun g => by simp only [peekG, hg], ⟨⟨hct, hxb, hte, hxa, hxc, hk, hp, hm, hsig⟩, ha, hF, hM⟩, hfl, hcc⟩

/-- Retirement of an instruction that is no far access keeps what its body left. -/
theorem retire_keeps {s : State} {q : Run} {d : Done} (hf : d.far = none) :
    keepsG d.s (retire s q d) q.c ∧ keepsRest d.s (retire s q d) q.c := by
  obtain ⟨hb, hm, hs, hk, -⟩ := retire_alike (s := s) (q := q) hf
  exact keeps_of_alike hb (fRegs_retire hf) ⟨hm, postedWrites_congr hs hk⟩

/-- A pipelined instruction begins in the state before it, but for the lines held. -/
theorem opened_keeps_of_pipelined {s : State} {q : Run} (hw : q.tm.whole = false) :
    keepsG s (opened s q) q.c ∧ keepsRest s (opened s q) q.c := by
  have ho : opened s q = setCore s q.c { getCore s q.c with lines := fetchLines s (curBank s q.c).ia.toNat q.len } := by
    simp [opened, hw]
  obtain ⟨-, hb, -⟩ := opened_keeps s q
  have hF : keepsF s (opened s q) q.c := by
    rw [ho]
    exact fRegs_setCore (by rfl) (by rfl)
  have hM : keepsMem s (opened s q) q.c := by
    rw [ho]
    refine ⟨rfl, ?_⟩
    rw [getCore_setCore, if_pos rfl]
    rfl
  exact keeps_of_alike (by rw [hb]; exact Bank.alike_refl _) hF hM

/-- A register write changes its own register, and nothing else that a program sees. -/
theorem wrG_keeps (s : State) (c : Nat) (r : Reg) (w : TWord) :
    onlyG s (wrG s c r w) c r w ∧ keepsRest s (wrG s c r w) c := by
  have hG : onlyG s (wrG s c r w) c r w := fun g => by simp only [peekG_wrG, eq_comm]
  have hF : fRegs (wrG s c r w) c = fRegs s c := by
    unfold wrG
    dsimp only
    split
    · rw [fRegs_setCore, fRegs_setBank] <;> rfl
    · exact fRegs_setBank ..
  have hM : keepsMem s (wrG s c r w) c := by
    unfold wrG
    dsimp only
    split
    · refine ⟨mem_setBank .., ?_⟩
      rw [getCore_setCore, if_pos rfl, postedWrites_dropFarG, postedWrites_setBank]
    · exact ⟨mem_setBank .., postedWrites_setBank ..⟩
  have hB := curBank_wrG s c r w
  refine ⟨hG, ⟨?_, ?_, hF, hM⟩, ?_, ?_⟩
  · simp only [keepsSpecial, hB, Bank.akey, Bank.priv, Bank.smode, Bank.sig, and_self]
  all_goals simp only [keepsA, keepsFl, keepsCc, hB, Bank.cc]

/-- A pipelined instruction whose body writes one register and does no more: that register alone changes. -/
theorem runCore_wrG {s : State} {q : Run} {body : State → Except Stop Done} {r : Reg} {w : TWord} {k : Nat}
    (h : clear s q = true) (hw : q.tm.whole = false)
    (hb : body (opened s q) = .ok (Done.of (wrG (opened s q) q.c r w) k)) :
    ∃ t, runCore s q body = .next t ∧ onlyG s t q.c r w ∧ keepsRest s t q.c := by
  have hd : closed q (Done.of (wrG (opened s q) q.c r w) k) = Done.of (wrG (opened s q) q.c r w) k := by
    simp [closed, hw]
  refine ⟨_, runCore_ok h hb rfl (noRoom_near rfl), ?_⟩
  rw [hd]
  obtain ⟨oG, oR⟩ := opened_keeps_of_pipelined hw
  obtain ⟨wG, wR⟩ := wrG_keeps (opened s q) q.c r w
  obtain ⟨rG, rR⟩ := retire_keeps (s := opened s q) (q := q) (d := Done.of (wrG (opened s q) q.c r w) k) rfl
  refine ⟨fun g => ?_, keepsRest_trans oR (keepsRest_trans wR rR)⟩
  calc _ = peekG (wrG (opened s q) q.c r w) q.c g := rG g
    _ = if g = r then w else peekG (opened s q) q.c g := wG g
    _ = if g = r then w else peekG s q.c g := by rw [oG g]

/-- A register reads the same in the state in which a body runs. -/
theorem rdG_opened {s : State} {q : Run} {c : Nat} {r : Reg} (hc : q.c = c) : rdG (opened s q) c r = rdG s c r := by
  subst hc
  simp only [rdG, peekG, (opened_keeps s q).2.1]

end Sys2Proof.Machine
end

section
/-! O3: TAGR, LDI and LDIW. -/

namespace Sys2Proof.Machine

theorem execTagr_clear {c : Nat} {rd ra : Reg} {s : State} {a : TWord}
    (h : clear s ⟨c, some false, 3, none, Tm.alu [ra.val] [rd.val], (Instr.tagr c rd ra).wf⟩ = true)
    (ha : rdG s c ra = .ok a) :
    ∃ t, execTagr c rd ra s = .next t ∧ onlyG s t c rd (fix (a.tag.setWidth 64)) ∧ keepsRest s t c := by
  refine runCore_wrG (k := 1) h rfl ?_
  dsimp only
  rw [rdG_opened rfl, ha, ← BitVec.ofNat_toNat]
  rfl

theorem execLdi_clear {c : Nat} {rd : Reg} {imm : BitVec 14} {s : State}
    (h : clear s (immRunOf (.ldi c rd imm) c [] [rd.val]) = true) :
    ∃ t, execLdi c rd imm s = .next t ∧ onlyG s t c rd (fix (imm.signExtend 64)) ∧ keepsRest s t c :=
  runCore_wrG h rfl rfl

theorem execLdiw_clear {c : Nat} {rd : Reg} {imm : Word} {s : State}
    (h : clear s ⟨c, some false, 10, none, Tm.alu [] [rd.val], (Instr.ldiw c rd imm).wf⟩ = true) :
    ∃ t, execLdiw c rd imm s = .next t ∧ onlyG s t c rd (fix imm) ∧ keepsRest s t c :=
  runCore_wrG h rfl rfl

/-- Settles O3: each is a pipelined instruction whose body is one register write. -/
theorem wordResults : Obligations.WordResults :=
  ⟨fun _ _ _ _ _ h ha => execTagr_clear h ha, fun _ _ _ _ h => execLdi_clear h, fun _ _ _ _ h => execLdiw_clear h⟩

end Sys2Proof.Machine
end

section
/-! O11: what a write that touches a heap-control block does. -/

namespace Sys2Proof.Machine

/-- R179: the one case in which a write may update word `i` of a heap-control block. -/
def heapFits (w : PWrite) (i : Nat) : Prop :=
  w.st8 = true ∧ w.a % 8 = 0 ∧ (w.tag = 0 ∨ w.tag = 0x10) ∧ heapOk i (BitVec.ofNat 64 (beNat w.bs)) = true

theorem touchesHeap_iff (w : PWrite) : touchesHeap w = true ↔ ∃ j < w.bs.length, heapAt (w.a + j) ≠ none := by
  simp [touchesHeap, Option.isSome_iff_ne_none]

/-- A fitting write updates memory and the hardware copy. -/
theorem applyWrite_of_heapFits {s : State} {w : PWrite} {n i : Nat} (hc : w.a < 0xFF00000000)
    (ht : touchesHeap w = true) (ha : heapAt w.a = some (n, i)) (hf : heapFits w i) :
    applyWrite s w = setCell (plainWrite s w) n
      { getCell s n with heap := tput 0 (getCell s n).heap i (BitVec.ofNat 64 (beNat w.bs)) } := by
  obtain ⟨h8, hal, htag, hok⟩ := hf
  simp only [applyWrite, Nat.not_le.mpr hc, ht, ha, if_true, if_false]
  rw [if_pos (by simpa [h8, hal, hok] using htag)]
  rfl

/-- Any other write that touches a block is refused. -/
theorem applyWrite_of_not_heapFits {s : State} {w : PWrite} (hc : w.a < 0xFF00000000) (ht : touchesHeap w = true)
    (hf : ∀ n i, heapAt w.a = some (n, i) → ¬heapFits w i) : applyWrite s w = refuse s := by
  simp only [applyWrite, Nat.not_le.mpr hc, ht, if_true, if_false]
  split
  · next n i ha =>
    refine if_neg fun hb => hf n i ha ?_
    simpa [heapFits, and_assoc] using hb
  · rfl

/-- The hardware copy after one of its words is put: that word alone changes. -/
theorem heapWord_setCell_tput (s t : State) (n i m j : Nat) (v : Word) (hs : t.cells = s.cells) :
    heapWord (setCell t n { getCell s n with heap := tput 0 (getCell s n).heap i v }) m j =
      if (m, j) = (n, i) then v else heapWord s m j := by
  have hg : getCell t m = getCell s m := by simp only [getCell, hs]
  simp only [heapWord, getCell_setCell, Prod.mk.injEq]
  by_cases hn : n = m
  · subst hn
    simp only [if_true, tget_tput, true_and, eq_comm]
  · rw [if_neg hn, if_neg fun e => hn e.1.symm, hg]

/-- Settles O11: a fitting write is `applyWrite_of_heapFits`, any other is refused. -/
theorem heapControl : Obligations.HeapControl := by
  intro s w hc v fits
  refine ⟨fun n i hlen ha hf => ?_, fun ht hf => applyWrite_of_not_heapFits hc ((touchesHeap_iff w).mpr ht) hf⟩
  have ht : touchesHeap w = true := (touchesHeap_iff w).mpr ⟨0, by omega, by simp [ha]⟩
  rw [applyWrite_of_heapFits hc ht ha hf]
  have hw := fun m j => heapWord_setCell_tput s (plainWrite s w) n i m j v rfl
  refine ⟨?_, fun j hj => ?_, fun b hb => ?_, fun m j hne => ?_⟩
  · rw [hw, if_pos rfl]
  · have hj : j < w.bs.length := by omega
    rw [List.getElem?_eq_getElem hj]
    exact congrArg some (rdByte_wrBytes_inside s.mem w.a w.tag w.bs j hj)
  · exact rdByte_wrBytes_outside s.mem w.a w.tag w.bs b (by omega)
  · rw [hw, if_neg hne]

end Sys2Proof.Machine
end
